-- ==== Sys2Proof/Word.lean ====
section
/-! DEFINITION. The word types of spec/00_scope.md R8 and R9. -/

namespace Sys2Proof

/-- A byte, and a device register address (R8, R60). -/
abbrev Byte := BitVec 8

/-- A `u32`: a command word, or the value of a response (R9, R100, R117). -/
abbrev Word := BitVec 32

/-- The bit pattern of an `s32` (R9). -/
abbrev S32 := BitVec 32

/-- The bit pattern of an `s64` (R9). -/
abbrev S64 := BitVec 64

end Sys2Proof
end

