-- ==== Sys2Proof/Config.lean ====
section
/-! DEFINITION. The implementation parameters of spec/00_scope.md R7: the decided constants, the register
addresses of spec/20_memory.md R60, the default configuration, and the one OPEN parameter a rule depends on.
The decided values are the spec's general knowledge (log 23). -/

namespace Sys2Proof

/-- A sampling configuration: the six fields of the shadow `CFG` (spec/10_state.md R30), in the codes of
spec/30_encoding.md R104 to R107. -/
structure SamplingConfig where
  mode : BitVec 2
  osrsT : BitVec 3
  osrsP : BitVec 3
  osrsH : BitVec 3
  filter : BitVec 3
  tSb : BitVec 3
deriving DecidableEq, Repr

/-- The named delays of the delay port (R11, R284). Their durations are OPEN and no rule depends on them
(R312), so a delay is its name alone (log 24). -/
inductive DelayName where
  | tResetSettle
  | tPollInterval
  | tInitSettle
deriving DecidableEq, Repr

namespace Config

/-- `CHIP_ID` (R62). -/
def chipId : Byte := 0x60#8
/-- `RESET_CODE` (R63). -/
def resetCode : Byte := 0xB6#8
/-- `REG_ID` (R62). -/
def regId : Byte := 0xD0#8
/-- `REG_RESET` (R63). -/
def regReset : Byte := 0xE0#8
/-- `REG_CTRL_HUM` (R65). -/
def regCtrlHum : Byte := 0xF2#8
/-- `REG_STATUS` (R64). -/
def regStatus : Byte := 0xF3#8
/-- `REG_CTRL_MEAS` (R66). -/
def regCtrlMeas : Byte := 0xF4#8
/-- `REG_CONFIG` (R67). -/
def regConfig : Byte := 0xF5#8
/-- `REG_PRESS`, the first of three (R68). -/
def regPress : Byte := 0xF7#8
/-- `REG_TEMP`, the first of three (R68). -/
def regTemp : Byte := 0xFA#8
/-- `REG_HUM`, the first of two (R68). -/
def regHum : Byte := 0xFD#8

/-- `DEFAULT_CONFIG`: NORMAL, X16, X16, X16, OFF, SB_0P5 (R119, R146). -/
def defaultConfig : SamplingConfig :=
  { mode := 3#2, osrsT := 5#3, osrsP := 5#3, osrsH := 5#3, filter := 0#3, tSb := 0#3 }

/-- The value the implementation gives `CAL_POLL_LIMIT`, uninterpreted: nothing in Lean evaluates it
(R7, D12; log 9). -/
opaque pollLimitChoice : Word

/-- `CAL_POLL_LIMIT` of the implementation: a positive number that fits the 32 bits of a response value
(R7, R270; log 9). -/
def calPollLimit : Nat := if pollLimitChoice = 0#32 then 1 else pollLimitChoice.toNat

end Config
end Sys2Proof
end

