-- ==== Sys2Proof/Syntax.lean ====
section
/-! DEFINITION. The command set: the five rows of spec/opcode_table.json (spec/30_encoding.md R101), and the
names of the operand codes (R104 to R107). -/

namespace Sys2Proof

/-- A command with its operands as the word's fields hold them (R111). `configure` has them in the operand
order of spec/41_configuration.md R180: md, ot, opr, oh, flt, sb. -/
inductive Instr where
  | init
  | configure (md : BitVec 2) (ot opr oh flt sb : BitVec 3)
  | readT
  | readP (fresh : Bool)
  | readH (fresh : Bool)
deriving DecidableEq, Repr

/-- Mode codes (R104). -/
def Mode.sleep : BitVec 2 := 0#2
def Mode.forced : BitVec 2 := 1#2
def Mode.normal : BitVec 2 := 3#2

/-- Oversampling codes (R105). -/
def Osrs.skip : BitVec 3 := 0#3
def Osrs.x1 : BitVec 3 := 1#3
def Osrs.x2 : BitVec 3 := 2#3
def Osrs.x4 : BitVec 3 := 3#3
def Osrs.x8 : BitVec 3 := 4#3
def Osrs.x16 : BitVec 3 := 5#3

/-- IIR filter codes (R106). -/
def Iir.off : BitVec 3 := 0#3
def Iir.f2 : BitVec 3 := 1#3
def Iir.f4 : BitVec 3 := 2#3
def Iir.f8 : BitVec 3 := 3#3
def Iir.f16 : BitVec 3 := 4#3

/-- Standby codes (R107). -/
def Standby.sb0p5 : BitVec 3 := 0#3
def Standby.sb62p5 : BitVec 3 := 1#3
def Standby.sb125 : BitVec 3 := 2#3
def Standby.sb250 : BitVec 3 := 3#3
def Standby.sb500 : BitVec 3 := 4#3
def Standby.sb1000 : BitVec 3 := 5#3
def Standby.sb10 : BitVec 3 := 6#3
def Standby.sb20 : BitVec 3 := 7#3

end Sys2Proof
end

