-- ==== Sys2Proof/WellFormed.lean ====
section
/-! DEFINITION. Which operand values a legal command has (spec/30_encoding.md R104 to R107, R110). -/

namespace Sys2Proof

/-- Mode 0b10 is illegal (R104). -/
def modeLegal (md : BitVec 2) : Bool := md != 2#2

/-- Oversampling codes 0b110 and 0b111 are illegal (R105). -/
def osrsLegal (o : BitVec 3) : Bool := o.ule 5#3

/-- Filter codes 0b101 to 0b111 are illegal (R106). -/
def filterLegal (f : BitVec 3) : Bool := f.ule 4#3

/-- The command's operands are legal codes; all eight standby codes are (R107). -/
def Instr.wellFormed : Instr → Bool
  | .init => true
  | .configure md ot opr oh flt _ =>
    modeLegal md && osrsLegal ot && osrsLegal opr && osrsLegal oh && filterLegal flt
  | .readT => true
  | .readP _ => true
  | .readH _ => true

/-- Legality of a sampling configuration, the same checks (R110). -/
def SamplingConfig.legal (c : SamplingConfig) : Bool :=
  modeLegal c.mode && osrsLegal c.osrsT && osrsLegal c.osrsP && osrsLegal c.osrsH && filterLegal c.filter

end Sys2Proof
end

