-- ==== Sys2Proof/Decode.lean ====
section
/-! DEFINITION. The decoder (spec/30_encoding.md R100 to R111), total on 32-bit words and rejecting by name,
and after it the encoder of the same formats. -/

namespace Sys2Proof

/-- Why a word is illegal (R110): its opcode, a must-be-zero bit, or a reserved operand code. -/
inductive IllegalReason where
  | opcode
  | mustBeZero
  | mode
  | oversampling
  | filter
deriving DecidableEq, Repr

/-- What a word decodes to (R111). -/
inductive Decoded where
  | command (i : Instr)
  | illegal (why : IllegalReason)
deriving DecidableEq, Repr

/-- The opcode field `OP`, bits 31:28 (R100). -/
def opField (w : Word) : BitVec 4 := w.extractLsb' 28 4

/-- `decode` on an INIT word (R102). -/
def decodeInit (w : Word) : Decoded :=
  if w.extractLsb' 0 28 = 0#28 then .command .init else .illegal .mustBeZero

/-- `decode` on a CONFIGURE word: its must-be-zero bits, then its operand codes, then its fields
(R103, R110). -/
def decodeConfigure (w : Word) : Decoded :=
  let md := w.extractLsb' 0 2
  let opr := w.extractLsb' 2 3
  let ot := w.extractLsb' 5 3
  let oh := w.extractLsb' 8 3
  let flt := w.extractLsb' 11 3
  let sb := w.extractLsb' 14 3
  if w.extractLsb' 17 11 ≠ 0#11 then .illegal .mustBeZero
  else if !modeLegal md then .illegal .mode
  else if !(osrsLegal ot && osrsLegal opr && osrsLegal oh) then .illegal .oversampling
  else if !filterLegal flt then .illegal .filter
  else .command (.configure md ot opr oh flt sb)

/-- `decode` on a READ_T word (R108). -/
def decodeReadT (w : Word) : Decoded :=
  if w.extractLsb' 0 28 = 0#28 then .command .readT else .illegal .mustBeZero

/-- `decode` on a READ_P word: bit 27 is the fresh bit (R109). -/
def decodeReadP (w : Word) : Decoded :=
  if w.extractLsb' 0 27 = 0#27 then .command (.readP (w.getLsbD 27)) else .illegal .mustBeZero

/-- `decode` on a READ_H word: bit 27 is the fresh bit (R109). -/
def decodeReadH (w : Word) : Decoded :=
  if w.extractLsb' 0 27 = 0#27 then .command (.readH (w.getLsbD 27)) else .illegal .mustBeZero

/-- The decoder (R101, R111). -/
def decode (w : Word) : Decoded :=
  if opField w = 1#4 then decodeInit w
  else if opField w = 2#4 then decodeConfigure w
  else if opField w = 3#4 then decodeReadT w
  else if opField w = 4#4 then decodeReadP w
  else if opField w = 5#4 then decodeReadH w
  else .illegal .opcode

/-- The command a word decodes to, if it is one. -/
def Decoded.toOption : Decoded → Option Instr
  | .command i => some i
  | .illegal _ => none

/-- The encoder: the word of a command, its fields most significant first (R102, R103, R108, R109). -/
def encode : Instr → Word
  | .init => 1#4 ++ 0#28
  | .configure md ot opr oh flt sb => 2#4 ++ 0#11 ++ sb ++ flt ++ oh ++ ot ++ opr ++ md
  | .readT => 3#4 ++ 0#28
  | .readP f => 4#4 ++ BitVec.ofBool f ++ 0#27
  | .readH f => 5#4 ++ BitVec.ofBool f ++ 0#27

/-- The word whose low `nbits` bits are those of `w` and whose other bits are zero. -/
def tableWord (nbits w : Nat) : Word := BitVec.ofNat 32 (w % 2 ^ nbits)

/-- What the decoder reads from an instruction whose bits are `w`, numbered as spec/opcode_table.json numbers
them. A command is one word on a port and has no byte order (R100), so the bits are the word's own; more than
32 bits are no command (log 21). -/
def decodeTableWord (nbits w : Nat) : Option Instr :=
  if nbits ≤ 32 then (decode (tableWord nbits w)).toOption else none

end Sys2Proof
end

