-- ==== Sys2Proof/Machine/State.lean ====
section
/-! DEFINITION. The state of the machine as plain data: the block's registers (spec/10_state.md R20 to R37), the
pseudocode's local variables, the three ports with their inputs and outputs (spec/00_scope.md R6), the
reference device behind the bus (spec/20_memory.md R82 to R89), and the state after reset
(spec/70_reset_and_hazards.md R300). -/

namespace Sys2Proof.Machine

/-! ### The sequencer position -/

/-- The three writes of `ApplyConfig`: CFG_W1, CFG_W2, CFG_W3 (R185). -/
inductive CfgWrite where
  | ctrlHum
  | config
  | ctrlMeas
deriving DecidableEq, Repr

/-- The twenty rows of `LoadCalibration`, each named by what it writes: LOAD_CAL(1) to LOAD_CAL(20)
(R145, R149). Rows `e4`, `h4`, `e5b`, `h5` are rows 16 to 19. -/
inductive CalRow where
  | t1 | t2 | t3
  | p1 | p2 | p3 | p4 | p5 | p6 | p7 | p8 | p9
  | h1 | h2 | h3
  | e4 | h4 | e5b | h5 | h6
deriving DecidableEq, Repr

/-- The sub-states of INIT (R149), and its `respond`. -/
inductive InitPos where
  | checkId
  | reset
  | resetSettle
  | poll
  | pollWait
  | loadCal (r : CalRow)
  | applyDefault (w : CfgWrite)
  | finalSettle
  | respond
deriving DecidableEq, Repr

/-- The positions of CONFIGURE (R180, R185). -/
inductive ConfigurePos where
  | write (w : CfgWrite)
  | respond
deriving DecidableEq, Repr

/-- The positions of READ_T (R241). -/
inductive ReadTPos where
  | temp
  | respond
deriving DecidableEq, Repr

/-- The positions of READ_P (R242). -/
inductive ReadPPos where
  | temp
  | press
  | respond
deriving DecidableEq, Repr

/-- The positions of READ_H (R243). -/
inductive ReadHPos where
  | temp
  | hum
  | respond
deriving DecidableEq, Repr

/-- `SEQ`: the pair (command, step), or IDLE (R21; what one step holds: log 1). -/
inductive Seq where
  | idle
  | init (p : InitPos)
  | configure (p : ConfigurePos)
  | readT (p : ReadTPos)
  | readP (p : ReadPPos)
  | readH (p : ReadHPos)
deriving DecidableEq, Repr

/-! ### Registers -/

/-- `LIFE` (R23). -/
inductive Life where
  | uninit
  | ready
  | failed
deriving DecidableEq, Repr

/-- The Calibration Store, each register its bit pattern; T1, P1, H1, H3 unsigned, the others signed (R25). -/
structure Cal where
  t1 : BitVec 16
  t2 : BitVec 16
  t3 : BitVec 16
  p1 : BitVec 16
  p2 : BitVec 16
  p3 : BitVec 16
  p4 : BitVec 16
  p5 : BitVec 16
  p6 : BitVec 16
  p7 : BitVec 16
  p8 : BitVec 16
  p9 : BitVec 16
  h1 : BitVec 8
  h2 : BitVec 16
  h3 : BitVec 8
  h4 : BitVec 16
  h5 : BitVec 16
  h6 : BitVec 8
deriving DecidableEq, Repr

/-- The response record (R32, R117). -/
structure Response where
  status : BitVec 4
  value : Word
  flags : BitVec 3
deriving DecidableEq, Repr

/-- The pseudocode's local variables that live from one step to a later one: the bytes `e4` and `e5b` of
`LoadCalibration` (R145, "transient and not block state"), and the value and flags a readout command has
computed and will respond with (R241 to R243). The model's own field (log 8). -/
structure Locals where
  e4 : Byte
  e5b : Byte
  value : Word
  flags : BitVec 3
deriving DecidableEq, Repr

/-! ### Ports and environment -/

/-- What the transport answers to one request (R70, R71): NACK; ACK with drawn bytes, of which an `n`-byte
read takes the first `n` and a write none; or ACK by the reference device, whose registers give a read its
bytes (`takesConfig` says whether the device takes a write of `REG_CONFIG` outside Sleep mode, R86, log 19). In both ACKs
a write reaches the device. (log 4, log 13) -/
inductive BusAnswer where
  | nack
  | ack (b0 b1 b2 : Byte)
  | device (takesConfig : Bool)
deriving DecidableEq, Repr

/-- What the device does of its own (R291; log 29): the calibration copy ends (R84), a conversion of Normal mode
begins, a conversion ends with the raw codes of its three channels (R66, R68, R87), or the reserved status bits
take other values (R64). -/
inductive DeviceMove where
  | copyDone
  | conversionStarts
  | conversionEnds (press temp : BitVec 24) (hum : BitVec 16)
  | reservedStatus (v : Byte)
deriving DecidableEq, Repr

/-- One item of the bus port's schedule. -/
inductive BusItem where
  | answer (a : BusAnswer)
  | move (m : DeviceMove)
deriving DecidableEq, Repr

/-- What the ports have seen, with the answer where there is one: `none` for NACK (R287). The bytes of a read
are the `n` bytes of its ACK. -/
inductive Event where
  | accept (w : Word)
  | read (addr : Byte) (n : Nat) (answer : Option (List Byte))
  | write (addr v : Byte) (ack : Bool)
  | delay (d : DelayName)
  | response (r : Response)
deriving DecidableEq, Repr

/-- The reference device (R82 to R87): its 256 registers as cells in canonical form, and the humidity
oversampling in effect, which `REG_CTRL_HUM` alone does not change (R82). -/
structure Device where
  regs : List Host.Cell
  oshEff : BitVec 3
deriving DecidableEq, Repr

/-! ### The state -/

/-- The machine's state. -/
structure State where
  /-- `SEQ` (R21) -/
  seq : Seq
  /-- `CMD` (R22) -/
  cmd : Word
  /-- `BUSY` (R22) -/
  busy : Bool
  /-- `LIFE` (R23) -/
  life : Life
  /-- `FAIL_CODE` (R24) -/
  failCode : BitVec 4
  /-- `CAL.*` (R25) -/
  cal : Cal
  /-- `CAL_VALID` (R26) -/
  calValid : Bool
  /-- `TFINE` (R27) -/
  tfine : S32
  /-- `TFINE_VALID` (R28) -/
  tfineValid : Bool
  /-- `TFINE_SENT` (R29) -/
  tfineSent : Bool
  /-- `CFG.*` (R30) -/
  cfg : SamplingConfig
  /-- `CFG_VALID` (R31) -/
  cfgValid : Bool
  /-- `RESP` (R32) -/
  resp : Response
  /-- `RESP_VALID` (R32) -/
  respValid : Bool
  /-- `POLLS` (R34) -/
  polls : Nat
  /-- local variables of the pseudocode (log 8) -/
  tmp : Locals
  /-- the OPEN parameter `CAL_POLL_LIMIT`, constant (R7; log 9) -/
  calPollLimit : Nat
  /-- words the host has to submit, oldest first (R289, R291) -/
  hostQueue : List Word
  /-- what happens at the bus port, oldest first (R70, R71, R291) -/
  busQueue : List BusItem
  /-- reports of the delay port not yet consumed (R284) -/
  delayDone : Nat
  /-- the platform asks for a block reset (R300) -/
  resetReq : Bool
  /-- what the ports have seen since block reset, oldest first (R287) -/
  events : List Event
  /-- the reference device (R82 to R87) -/
  dev : Device
deriving DecidableEq, Repr

/-! ### Reasons to stop -/

/-- The groups of registers that have "no value" while their validity bit is 0 (R33, R148, R248). -/
inductive NoValue where
  | cal
  | tfine
deriving DecidableEq, Repr

/-- Faults. No run from reset reaches one (R33; log 7, log 22). -/
inductive Fault where
  /-- `UnwrittenRead` (R33): a readout command reads `CAL.*` while `CAL_VALID = 0`, or `TFINE` while
  `TFINE_VALID = 0`. Raised by the conversions of READ_T, READ_P and READ_H. Safe. -/
  | unwrittenRead (r : NoValue)
  /-- A command's meaning is asked for at a sequencer position of another command. Raised by every meaning.
  Safe: `SEQ` is the pair of the executing command and its step (R21), so no run is there. -/
  | foreignSequencer
  /-- `BUSY = 1` while `CMD` is no legal command. Raised by the step. Safe: an illegal word is answered in the
  step that accepts it (R274), so no run is there. -/
  | noCommand
deriving DecidableEq, Repr

/-- Refusals. -/
inductive Refusal where
  /-- An instruction that has no meaning yet; raised by an arm of `exec`, and there is no such arm. Safe. -/
  | notModelled (mnemonic : String)
deriving DecidableEq, Repr

/-! ### Reset -/

/-- A calibration store of zeros: the model's choice for "no value" (log 6). -/
def Cal.zero : Cal :=
  { t1 := 0, t2 := 0, t3 := 0, p1 := 0, p2 := 0, p3 := 0, p4 := 0, p5 := 0, p6 := 0, p7 := 0, p8 := 0, p9 := 0,
    h1 := 0, h2 := 0, h3 := 0, h4 := 0, h5 := 0, h6 := 0 }

/-- Local variables before a command has written one (log 8). -/
def Locals.zero : Locals := { e4 := 0, e5b := 0, value := 0, flags := 0 }

/-- The device after power-on: no register differs from its reset value (R83). -/
def Device.powerOn : Device := { regs := [], oshEff := 0 }

/-- The machine right after reset (R300); registers the rule gives "no value" or leaves unspecified hold zero
(log 6), the ports are silent, and the device has just powered up. -/
def State.reset : State :=
  { seq := .idle, cmd := 0, busy := false, life := .uninit, failCode := 0,
    cal := Cal.zero, calValid := false, tfine := 0, tfineValid := false, tfineSent := false,
    cfg := { mode := 0, osrsT := 0, osrsP := 0, osrsH := 0, filter := 0, tSb := 0 }, cfgValid := false,
    resp := { status := 0, value := 0, flags := 0 }, respValid := false, polls := 0,
    tmp := Locals.zero, calPollLimit := Config.calPollLimit,
    hostQueue := [], busQueue := [], delayDone := 0, resetReq := false, events := [], dev := Device.powerOn }

end Sys2Proof.Machine
end

