-- ==== Sys2Proof/Machine/Arith.lean ====
section
/-! DEFINITION. The arithmetic operators of spec/00_scope.md R10 on signed N-bit values, held as bit patterns.
`+N`, `-N` and `*N` are `+`, `-` and `*` of BitVec; the rest are named here, with R10's `wrapN` on integers.
No overflow is a fault (log 26). -/

namespace Sys2Proof.Machine

/-- `a <<N k`: multiply by `2^k` and wrap, also for negative `a` (R10). -/
def shl {n : Nat} (a : BitVec n) (k : Nat) : BitVec n := a <<< k

/-- `a >>N k`: arithmetic shift, floor of `a / 2^k` (R10). -/
def asr {n : Nat} (a : BitVec n) (k : Nat) : BitVec n := a.sshiftRight k

/-- `a /N b`: the quotient truncated toward zero, wrapped (R10); its callers never give `b = 0` (R205). -/
def divTrunc {n : Nat} (a b : BitVec n) : BitVec n := a.sdiv b

/-- `zext_N(v)` (R9). -/
def zext {m : Nat} (n : Nat) (v : BitVec m) : BitVec n := v.setWidth n

/-- `sext_N(v)` (R9). -/
def sext {m : Nat} (n : Nat) (v : BitVec m) : BitVec n := v.signExtend n

/-- `asU32(s)`: bits 31..0 of the pattern (R9). -/
def asU32 {n : Nat} (s : BitVec n) : Word := s.setWidth 32

/-- `wrapN(x)`: an integer reduced into the signed `n`-bit range (R10). -/
def wrapN (n : Nat) (x : Int) : Int := (x + 2 ^ (n - 1)) % 2 ^ n - 2 ^ (n - 1)

end Sys2Proof.Machine
end

