-- ==== Sys2Proof/Machine/Operands.lean ====
section
/-! DEFINITION. Operand assembly: raw ADC codes and calibration coefficients from bus bytes
(spec/30_encoding.md R112 to R115), and the register images of a configuration (R116). -/

namespace Sys2Proof.Machine

/-- `code24`, the three bytes of a data register, the lowest address most significant (R112, R73). -/
def code24 (b0 b1 b2 : Byte) : BitVec 24 := b0 ++ b1 ++ b2

/-- `adcT` and `adcP`: the code without its 4 unused low bits (R112). -/
def adc20 (code : BitVec 24) : S32 := (code >>> 4).setWidth 32

/-- The humidity code, two bytes, not shifted (R112; spec/90_conflicts.md C2). -/
def code16 (b0 b1 : Byte) : BitVec 16 := b0 ++ b1

/-- `adcH` (R112). -/
def adc16 (code : BitVec 16) : S32 := code.setWidth 32

/-- `u16le` and `s16le`: the same 16 bits, the lower address least significant (R113). -/
def le16 (lo hi : Byte) : BitVec 16 := hi ++ lo

/-- `CAL.H4` from the registers 0xE4 and 0xE5 (R114). -/
def assembleH4 (e4 e5 : Byte) : BitVec 16 := sext 16 e4 * 16#16 + zext 16 (e5.extractLsb' 0 4)

/-- `CAL.H5` from the registers 0xE5 and 0xE6 (R115). -/
def assembleH5 (e5 e6 : Byte) : BitVec 16 := sext 16 e6 * 16#16 + zext 16 (e5.extractLsb' 4 4)

/-- The image of `REG_CTRL_HUM` (R116, R65). -/
def imgCtrlHum (c : SamplingConfig) : Byte := zext 8 c.osrsH

/-- The image of `REG_CONFIG` (R116, R67). -/
def imgConfig (c : SamplingConfig) : Byte := (zext 8 c.tSb <<< 5) ||| (zext 8 c.filter <<< 2)

/-- The image of `REG_CTRL_MEAS` (R116, R66). -/
def imgCtrlMeas (c : SamplingConfig) : Byte :=
  (zext 8 c.osrsT <<< 5) ||| (zext 8 c.osrsP <<< 2) ||| zext 8 c.mode

end Sys2Proof.Machine
end

