-- ==== Sys2Proof/Machine/Flags.lean ====
section
/-! DEFINITION. The response flags (spec/30_encoding.md R117) and the conditions that set them
(spec/43_readout.md R246). The block has no arithmetic condition codes (spec/10_state.md R36). -/

namespace Sys2Proof.Machine

/-- `FLAGS`: bit 0 CH_SENT, bit 1 T_SENT, bit 2 DIV0 (R117). -/
def flagWord (chSent tSent div0 : Bool) : BitVec 3 :=
  BitVec.ofBool div0 ++ BitVec.ofBool tSent ++ BitVec.ofBool chSent

/-- The disabled-channel code of temperature and pressure (R246). -/
def isSentinel24 (code : BitVec 24) : Bool := code == 0x800000#24

/-- The disabled-channel code of humidity (R246). -/
def isSentinel16 (code : BitVec 16) : Bool := code == 0x8000#16

end Sys2Proof.Machine
end

