-- ==== Sys2Proof/Machine/Compensation.lean ====
section
/-! DEFINITION. The compensation functions (spec/42_compensation.md R200 to R209): pure, and total. -/

namespace Sys2Proof.Machine

/-- The temperature in 0.01 °C from the fine temperature: the final step of COMP_T (R201). -/
def centiCelsius (tf : S32) : S32 := asr (tf * 5#32 + 128#32) 8

/-- The fine temperature of a raw code: `var1 + var2` of COMP_T (R201). -/
def fineTemperature (c : Cal) (adcT : S32) : S32 :=
  let var1 := asr ((asr adcT 3 - shl (zext 32 c.t1) 1) * sext 32 c.t2) 11
  let d := asr adcT 4 - zext 32 c.t1
  let var2 := asr (asr (d * d) 12 * sext 32 c.t3) 14
  var1 + var2

/-- `COMP_T(adcT) -> (T, tf)` (R201). -/
def compT (c : Cal) (adcT : S32) : S32 × S32 :=
  let tf := fineTemperature c adcT
  (centiCelsius tf, tf)

/-- `v1` of COMP_P after its first line (R202). -/
def pressV (tf : S32) : S64 := sext 64 tf - 128000#64

/-- `v2` of COMP_P after its fourth line (R202). -/
def pressOffset (c : Cal) (tf : S32) : S64 :=
  let v1 := pressV tf
  v1 * v1 * sext 64 c.p6 + shl (v1 * sext 64 c.p5) 17 + shl (sext 64 c.p4) 35

/-- The divisor: `v1` of COMP_P after its sixth line (R202, R205). -/
def pressDivisor (c : Cal) (tf : S32) : S64 :=
  let v1 := pressV tf
  let v1 := asr (v1 * v1 * sext 64 c.p3) 8 + shl (v1 * sext 64 c.p2) 12
  asr ((shl 1#64 47 + v1) * zext 64 c.p1) 33

/-- `p` of COMP_P after its last line, for a divisor that is not 0 (R202). -/
def pressQuotient (c : Cal) (adcP tf : S32) : S64 :=
  let p := 1048576#64 - sext 64 adcP
  let p := divTrunc ((shl p 31 - pressOffset c tf) * 3125#64) (pressDivisor c tf)
  let v1 := asr (sext 64 c.p9 * asr p 13 * asr p 13) 25
  let v2 := asr (sext 64 c.p8 * p) 19
  asr (p + v1 + v2) 8 + shl (sext 64 c.p7) 4

/-- `COMP_P(adcP, tf) -> (P, div0)` (R202); a zero divisor gives 0 and no division is made (R205). -/
def compP (c : Cal) (adcP tf : S32) : Word × Bool :=
  if pressDivisor c tf = 0#64 then (0#32, true) else (asU32 (pressQuotient c adcP tf), false)

/-- The humidity before the clamp: `v` of COMP_H after its seventh line (R203). -/
def humidityPreClamp (c : Cal) (adcH tf : S32) : S32 :=
  let v := tf - 76800#32
  let a := asr (shl adcH 14 - shl (sext 32 c.h4) 20 - sext 32 c.h5 * v + 16384#32) 15
  let b := asr (v * sext 32 c.h6) 10
  let c' := asr (v * zext 32 c.h3) 11 + 32768#32
  let e := asr ((asr (b * c') 10 + 2097152#32) * sext 32 c.h2 + 8192#32) 14
  let v := a * e
  v - asr (asr (asr v 15 * asr v 15) 7 * zext 32 c.h1) 4

/-- The clamp to [0, 419430400], compared as signed numbers (R206). -/
def clampHumidity (v : S32) : S32 :=
  if v.slt 0#32 then 0#32 else if (419430400#32).slt v then 419430400#32 else v

/-- `COMP_H(adcH, tf) -> H` (R203). -/
def compH (c : Cal) (adcH tf : S32) : Word := asU32 (asr (clampHumidity (humidityPreClamp c adcH tf)) 12)

end Sys2Proof.Machine
end

