-- ==== Sys2Proof/Machine/DeviceSpace.lean ====
section
/-! DEFINITION. The device register space (spec/20_memory.md R60 to R69) as a canonical list of cells, and the
reference device behind the bus (R82 to R89). The device is environment (R70): a bus answer may take its bytes
from here, or be any draw. -/

namespace Sys2Proof.Machine

/-! ### Bytes by address -/

/-- What an address that no cell lists reads as: the device's reset value (R60); 0x00 where R60 states none
(the factory values and the addresses its table does not list; log 14). -/
def resetByte (a : Nat) : Byte :=
  if a = 0xD0 then 0x60#8
  else if a = 0xF7 ∨ a = 0xFA ∨ a = 0xFD then 0x80#8
  else 0x00#8

/-- The byte at an address. -/
def Memory.read (m : List Host.Cell) (a : Nat) : Byte :=
  match m with
  | [] => resetByte a
  | (k, x) :: rest => if k = a then x else Memory.read rest a

/-- Store one byte, keeping the form canonical: a byte equal to what an unlisted address reads as is not
listed. -/
def Memory.write (m : List Host.Cell) (a : Nat) (v : Byte) : List Host.Cell :=
  match m with
  | [] => if v = resetByte a then [] else [(a, v)]
  | (k, x) :: rest =>
    if a < k then (if v = resetByte a then (k, x) :: rest else (a, v) :: (k, x) :: rest)
    else if a = k then (if v = resetByte a then rest else (a, v) :: rest)
    else (k, x) :: Memory.write rest a v

/-- The canonical form: addresses of the space (below 256), strictly rising from `lo`, and no cell equal to
what its address reads as unlisted. -/
def Memory.wfFrom (lo : Nat) (m : List Host.Cell) : Bool :=
  match m with
  | [] => true
  | (k, x) :: rest => decide (lo ≤ k) && decide (k < 256) && decide (x ≠ resetByte k) && Memory.wfFrom (k + 1) rest

/-- The canonical form of the whole register space. -/
def Memory.wf (m : List Host.Cell) : Bool := Memory.wfFrom 0 m

/-! ### The reference device -/

/-- `osrs_t`, `osrs_p` and `mode` of `REG_CTRL_MEAS` (R66). -/
def Device.osrsT (d : Device) : BitVec 3 := (Memory.read d.regs 0xF4).extractLsb' 5 3
def Device.osrsP (d : Device) : BitVec 3 := (Memory.read d.regs 0xF4).extractLsb' 2 3
def Device.mode (d : Device) : BitVec 2 := (Memory.read d.regs 0xF4).extractLsb' 0 2

/-- The channel that `a` belongs to is skipped: its oversampling in effect is Skip (R68, R82; log 18). -/
def Device.skipped (d : Device) (a : Nat) : Bool :=
  (decide (0xF7 ≤ a ∧ a ≤ 0xF9) && d.osrsP == 0#3) ||
  (decide (0xFA ≤ a ∧ a ≤ 0xFC) && d.osrsT == 0#3) ||
  (decide (0xFD ≤ a ∧ a ≤ 0xFE) && d.oshEff == 0#3)

/-- The byte a bus read of address `a` gives: a skipped channel reads its sentinel, which is the channel's reset
value (R60, R68); every address answers (R89). -/
def Device.read (d : Device) (a : Byte) : Byte :=
  if d.skipped a.toNat then resetByte a.toNat else Memory.read d.regs a.toNat

/-- `measuring`, bit 3 of `REG_STATUS`: a conversion is running (R64). -/
def Device.measuring (d : Device) : Bool := (Memory.read d.regs 0xF3).getLsbD 3

/-- `REG_STATUS` takes the byte `v`. -/
def Device.setStatus (d : Device) (v : Byte) : Device := { d with regs := Memory.write d.regs 0xF3 v }

/-- The status byte `st` with its `measuring` bit set to `b` (R64). -/
def withMeasuring (st : Byte) (b : Bool) : Byte := if b then st ||| 0x08#8 else st &&& 0xF7#8

/-- The registers of `REG_PRESS` or `REG_TEMP` (`a` the first of three) take the code, most significant byte
first (R68, R73). -/
def storeCode24 (regs : List Host.Cell) (a : Nat) (code : BitVec 24) : List Host.Cell :=
  Memory.write (Memory.write (Memory.write regs a (code.extractLsb' 16 8)) (a + 1) (code.extractLsb' 8 8))
    (a + 2) (code.extractLsb' 0 8)

/-- The registers of `REG_HUM` take the code (R68, R73). -/
def storeCode16 (regs : List Host.Cell) (a : Nat) (code : BitVec 16) : List Host.Cell :=
  Memory.write (Memory.write regs a (code.extractLsb' 8 8)) (a + 1) (code.extractLsb' 0 8)

/-- The data registers of each channel that has a code take it (R68). -/
def storeChannels (regs : List Host.Cell) (p t : Option (BitVec 24)) (h : Option (BitVec 16)) : List Host.Cell :=
  let regs := match p with
    | some code => storeCode24 regs 0xF7 code
    | none => regs
  let regs := match t with
    | some code => storeCode24 regs 0xFA code
    | none => regs
  match h with
  | some code => storeCode16 regs 0xFD code
  | none => regs

/-- The data registers of a skipped channel take its sentinel, which they keep until a conversion after the
channel is enabled again (R68, R309; log 18). -/
def Device.clearSkipped (d : Device) : Device :=
  let p := if d.osrsP = 0#3 then some 0x800000#24 else none
  let t := if d.osrsT = 0#3 then some 0x800000#24 else none
  let h := if d.oshEff = 0#3 then some 0x8000#16 else none
  { d with regs := storeChannels d.regs p t h }

/-- A conversion's results: the data registers of every channel that is not skipped take its code, all in one
move, so that one burst read sees one conversion (R68, R87). The oversampling at the end of the conversion decides
which channels these are, also after a write of `REG_CTRL_MEAS` while it ran (the model's choice, log 33). -/
def Device.storeConversion (d : Device) (p t : BitVec 24) (h : BitVec 16) : Device :=
  let p' := if d.osrsP = 0#3 then none else some p
  let t' := if d.osrsT = 0#3 then none else some t
  let h' := if d.oshEff = 0#3 then none else some h
  { d with regs := storeChannels d.regs p' t' h' }

/-- Soft reset: the control and data registers take their reset values, the calibration stays (R85), and
`REG_STATUS` bit 0 is 1 while the calibration data are copied (R83, R84; log 16). A calibration register reads
its factory byte during the copy too, which R84 and R85 leave open (the model's choice, log 31). -/
def Device.softReset (d : Device) : Device :=
  { regs := Memory.write (d.regs.filter (fun c => decide (c.1 < 0xF2))) 0xF3 0x01#8, oshEff := 0#3 }

/-- The `measuring` bit after a write of the mode `md`, `was` being the bit before: Forced starts a measurement
(R66), Sleep stops one (R104, R180; log 20), and on Normal a running one goes on and the next begins by a move
of the device (the model's choice, log 32). -/
def measuringAfter (md : BitVec 2) (was : Bool) : Bool :=
  if md = 0#2 then false else if md = 3#2 then was else true

/-- A write of `REG_CTRL_MEAS`: the pending humidity oversampling takes effect (R82), the mode starts, stops or
goes on measuring (R66), and the channels that are Skip now take their sentinel (R68). -/
def Device.writeCtrlMeas (d : Device) (v : Byte) : Device :=
  let status := withMeasuring (Memory.read d.regs 0xF3) (measuringAfter (v.extractLsb' 0 2) d.measuring)
  let osh := (Memory.read d.regs 0xF2).extractLsb' 0 3
  (Device.setStatus { regs := Memory.write d.regs 0xF4 v, oshEff := osh } status).clearSkipped

/-- A write the device receives. Only the reset code has an effect at `REG_RESET` (R63); the three control
registers take the byte (R65 to R67), `REG_CONFIG` in Sleep mode always, in Normal mode only if the device takes
it (R86), and so in Forced mode, of which R86 does not speak (the model's choice, log 19); a write elsewhere has
no effect (read-only, R60; log 17). -/
def Device.write (d : Device) (takesConfig : Bool) (a v : Byte) : Device :=
  if a = Config.regReset then (if v = Config.resetCode then d.softReset else d)
  else if a = Config.regCtrlHum then { d with regs := Memory.write d.regs 0xF2 v }
  else if a = Config.regCtrlMeas then d.writeCtrlMeas v
  else if a = Config.regConfig then
    (if d.mode ≠ 0#2 ∧ takesConfig = false then d else { d with regs := Memory.write d.regs 0xF5 v })
  else d

/-- The measurement of Forced mode is over: the device returns to Sleep (R66). In Normal mode it stays. -/
def Device.leaveForced (d : Device) : Device :=
  if d.mode = 3#2 then d
  else { d with regs := Memory.write d.regs 0xF4 (Memory.read d.regs 0xF4 &&& 0xFC#8) }

/-- A running conversion ends with the codes of its channels: `measuring` reads 0, and Forced mode returns to
Sleep (R64, R66, R68). -/
def Device.endConversion (d : Device) (p t : BitVec 24) (h : BitVec 16) : Device :=
  let d' := (d.storeConversion p t h).leaveForced
  d'.setStatus (withMeasuring (Memory.read d'.regs 0xF3) false)

/-- A move of the device's own (log 29). A conversion begins of itself in Normal mode only, and ends only where
one runs, never in Sleep (R83, R104); every other register stays (R85). -/
def Device.move (d : Device) : DeviceMove → Device
  | .copyDone => d.setStatus (Memory.read d.regs 0xF3 &&& 0xFE#8)
  | .conversionStarts =>
    if d.mode = 3#2 then d.setStatus (withMeasuring (Memory.read d.regs 0xF3) true) else d
  | .conversionEnds p t h => if d.mode ≠ 0#2 ∧ d.measuring = true then d.endConversion p t h else d
  | .reservedStatus v => d.setStatus ((Memory.read d.regs 0xF3 &&& 0x09#8) ||| (v &&& 0xF6#8))

end Sys2Proof.Machine
end

