-- ==== Sys2Proof/Machine/Ops.lean ====
section
/-! DEFINITION. The shared operations of every command: the port primitives (spec/00_scope.md R11), the error
mechanism (spec/60_exceptions.md R270, R279), the response, the guarded register reads (spec/10_state.md R33),
the acceptance of a word (R289), and block reset (spec/70_reset_and_hazards.md R300). -/

namespace Sys2Proof.Machine

/-! ### Ports -/

/-- Append an event to the record of the ports, a transaction when it is answered (R287; log 5, log 11). -/
def logEvent (e : Event) (s : State) : State := { s with events := s.events ++ [e] }

/-- How a bus read ends: the port has not answered, NACK, or ACK with the bytes (R70). -/
inductive ReadResult where
  | waiting
  | nack (s : State)
  | ack (b0 b1 b2 : Byte) (s : State)
deriving DecidableEq, Repr

/-- How a bus write ends (R71). -/
inductive WriteResult where
  | waiting
  | nack (s : State)
  | done (s : State)
deriving DecidableEq, Repr

/-- The first `n` of three bytes. -/
def firstBytes (n : Nat) (b0 b1 b2 : Byte) : List Byte := [b0, b1, b2].take n

/-- `MemRead(addr, n)`: one request, one answer, in one step (R11, R70, R76). Without an answer the block
waits (R291; log 4). -/
def memRead (addr : Byte) (n : Nat) (s : State) : ReadResult :=
  match s.busQueue with
  | .answer .nack :: rest => .nack (logEvent (.read addr n none) { s with busQueue := rest })
  | .answer (.ack b0 b1 b2) :: rest =>
    .ack b0 b1 b2 (logEvent (.read addr n (some (firstBytes n b0 b1 b2))) { s with busQueue := rest })
  | .answer (.device _) :: rest =>
    let b0 := s.dev.read addr
    let b1 := s.dev.read (addr + 1#8)
    let b2 := s.dev.read (addr + 2#8)
    .ack b0 b1 b2 (logEvent (.read addr n (some (firstBytes n b0 b1 b2))) { s with busQueue := rest })
  | _ => .waiting

/-- `MemWrite(addr, 1, v)` (R11, R71). An acknowledged write reaches the device, a refused one does not
(log 15). -/
def memWrite (addr v : Byte) (s : State) : WriteResult :=
  match s.busQueue with
  | .answer .nack :: rest => .nack (logEvent (.write addr v false) { s with busQueue := rest })
  | .answer (.ack _ _ _) :: rest =>
    .done (logEvent (.write addr v true) { s with busQueue := rest, dev := s.dev.write true addr v })
  | .answer (.device takes) :: rest =>
    .done (logEvent (.write addr v true) { s with busQueue := rest, dev := s.dev.write takes addr v })
  | _ => .waiting

/-- `Delay(d)`: the block resumes when the delay port reports it done (R11, R284); `none` while it has not
(log 4, log 25). -/
def delay (d : DelayName) (s : State) : Option State :=
  match s.delayDone with
  | 0 => none
  | k + 1 => some (logEvent (.delay d) { s with delayDone := k })

/-! ### Errors and responses -/

/-- The errors of R270. -/
inductive ErrorKind where
  | wrongDevice
  | calibrationTimeout
  | transportError
  | illegalCommand
  | notInitialized
  | alreadyInitialized
  | staleFineTemperature
deriving DecidableEq, Repr

/-- Their status codes (R270); 0x0 is OK, 0x8 to 0xF are never produced. -/
def ErrorKind.code : ErrorKind → BitVec 4
  | .wrongDevice => 0x1#4
  | .calibrationTimeout => 0x2#4
  | .transportError => 0x3#4
  | .illegalCommand => 0x4#4
  | .notInitialized => 0x5#4
  | .alreadyInitialized => 0x6#4
  | .staleFineTemperature => 0x7#4

/-- Write the response record, deliver it on the host port in the same step, and end the command: `SEQ` to IDLE
and `BUSY` to 0 (R11, R21, R32, R279; log 3). `CMD` keeps the word it had: what it holds while idle is unspecified
and never read (R22, U11; the model's choice, log 30). -/
def finish (r : Response) (s : State) : State :=
  logEvent (.response r) { s with resp := r, respValid := true, seq := .idle, busy := false }

/-- `raise E(info)`, the one way an error is taken (R279): RESP gets the code and the info, with no flags.
A command's own error effects are applied to `s` before. There is no vector, no saved state and no
return-from-error command: the block is idle afterwards (R280). -/
def raise (e : ErrorKind) (info : Word) (s : State) : State :=
  finish { status := e.code, value := info, flags := 0#3 } s

/-- `respond(OK, value, flags)` (R11, R117). -/
def respondOk (value : Word) (flags : BitVec 3) (s : State) : State :=
  finish { status := 0x0#4, value := value, flags := flags } s

/-! ### Register reads that R33 guards -/

/-- `CAL.*`, which has no value for any reader while `CAL_VALID = 0` (R33, R148; log 7). -/
def readCal (s : State) : Option Cal := if s.calValid then some s.cal else none

/-- `TFINE`, which is unreadable while `TFINE_VALID = 0` (R33, R248; log 7). -/
def readTFine (s : State) : Option S32 := if s.tfineValid then some s.tfine else none

/-! ### The host port and the platform -/

/-- Take the word `w` from the host port, `rest` being what the host still holds (R289). The command begins at
its first statement. -/
def accept (w : Word) (rest : List Word) (s : State) : State :=
  logEvent (.accept w) { s with hostQueue := rest, cmd := w, busy := true, seq := .idle }

/-- Block reset: every block register takes its reset value, the record of events starts anew, and the device,
the ports' inputs and the parameter stay (R300; log 11, log 12). -/
def blockReset (s : State) : State :=
  { State.reset with
    calPollLimit := s.calPollLimit, hostQueue := s.hostQueue, busQueue := s.busQueue,
    delayDone := s.delayDone, dev := s.dev }

/-- The device's own move at the head of the bus port's schedule; the block stands still. -/
def deviceMove (m : DeviceMove) (rest : List BusItem) (s : State) : State :=
  { s with busQueue := rest, dev := s.dev.move m }

/-- The bus port's schedule without the device moves at its head. -/
def dropMoves : List BusItem → List BusItem
  | .move _ :: rest => dropMoves rest
  | q => q

/-- `s` with `w` the word the host port gives next, and nothing that comes before its acceptance (log 21). -/
def placeWord (w : Word) (s : State) : State :=
  { s with hostQueue := w :: s.hostQueue, busy := false, seq := .idle, resetReq := false,
           busQueue := dropMoves s.busQueue }

end Sys2Proof.Machine
end

