-- ==== Sys2Proof/Machine/Configuration.lean ====
section
/-! DEFINITION. The Sampling Configuration family: `ApplyConfig`, which INIT shares, and CONFIGURE
(spec/41_configuration.md R180 to R187). -/

namespace Sys2Proof.Machine

/-- The register each write of `ApplyConfig` goes to (R181). -/
def CfgWrite.addr : CfgWrite → Byte
  | .ctrlHum => Config.regCtrlHum
  | .config => Config.regConfig
  | .ctrlMeas => Config.regCtrlMeas

/-- The byte each write carries (R116, R181). -/
def CfgWrite.image (c : SamplingConfig) : CfgWrite → Byte
  | .ctrlHum => imgCtrlHum c
  | .config => imgConfig c
  | .ctrlMeas => imgCtrlMeas c

/-- The write after this one (R181, R185). -/
def CfgWrite.next : CfgWrite → Option CfgWrite
  | .ctrlHum => some .config
  | .config => some .ctrlMeas
  | .ctrlMeas => none

/-- Entry to `ApplyConfig`, with no port event (R183, R187). -/
def applyConfigEntry (s : State) : State := { s with tfineValid := false, cfgValid := false }

/-- One write of `ApplyConfig`; after the third the shadow holds the operands and is valid (R183, R185). -/
def applyConfigWrite (c : SamplingConfig) (w : CfgWrite) (s : State) : WriteResult :=
  match memWrite w.addr (w.image c) s with
  | .waiting => .waiting
  | .nack s' => .nack s'
  | .done s' =>
    match w.next with
    | some _ => .done s'
    | none => .done { s' with cfg := c, cfgValid := true }

/-- CONFIGURE with its operands as one configuration (R180). A write answered NACK ends it (R186). -/
def configureStep (c : SamplingConfig) (s : State) : Host.Outcome State Fault Refusal :=
  match s.seq with
  | .idle =>
    if s.life ≠ .ready then .next (raise .notInitialized 0#32 s)
    else .next { applyConfigEntry s with seq := .configure (.write .ctrlHum) }
  | .configure (.write w) =>
    match applyConfigWrite c w s with
    | .waiting => .next s
    | .nack s' => .next (raise .transportError (zext 32 w.addr) s')
    | .done s' =>
      match w.next with
      | some w' => .next { s' with seq := .configure (.write w') }
      | none => .next { s' with seq := .configure .respond }
  | .configure .respond => .next (respondOk 0#32 0#3 s)
  | .init _ => .fault .foreignSequencer
  | .readT _ => .fault .foreignSequencer
  | .readP _ => .fault .foreignSequencer
  | .readH _ => .fault .foreignSequencer

/-- CONFIGURE (R180). Reserved operand codes, which no word decodes to, are written as they are (log 27). -/
def execConfigure (md : BitVec 2) (ot opr oh flt sb : BitVec 3) (s : State) : Host.Outcome State Fault Refusal :=
  configureStep { mode := md, osrsT := ot, osrsP := opr, osrsH := oh, filter := flt, tSb := sb } s

end Sys2Proof.Machine
end

