-- ==== Sys2Proof/Machine/Lifecycle.lean ====
section
/-! DEFINITION. The Device Lifecycle family: INIT and its sub-states (spec/40_lifecycle.md R140 to R150). -/

namespace Sys2Proof.Machine

/-- What an INIT failure does before its response (R148). -/
def initFailEffects (e : ErrorKind) (s : State) : State :=
  { s with life := .failed, failCode := e.code, calValid := false, cfgValid := false, tfineValid := false }

/-- A `raise` inside INIT after its acceptance (R148). -/
def initFail (e : ErrorKind) (info : Word) (s : State) : State := raise e info (initFailEffects e s)

/-- The NACK of an INIT transaction at `addr` (R148, R273). -/
def initNack (addr : Byte) (s : State) : State := initFail .transportError (zext 32 addr) s

/-! ### The calibration load -/

/-- The first register of each row's read (R145). -/
def CalRow.addr : CalRow → Byte
  | .t1 => 0x88#8
  | .t2 => 0x8A#8
  | .t3 => 0x8C#8
  | .p1 => 0x8E#8
  | .p2 => 0x90#8
  | .p3 => 0x92#8
  | .p4 => 0x94#8
  | .p5 => 0x96#8
  | .p6 => 0x98#8
  | .p7 => 0x9A#8
  | .p8 => 0x9C#8
  | .p9 => 0x9E#8
  | .h1 => 0xA1#8
  | .h2 => 0xE1#8
  | .h3 => 0xE3#8
  | .e4 => 0xE4#8
  | .h4 => 0xE5#8
  | .e5b => 0xE5#8
  | .h5 => 0xE6#8
  | .h6 => 0xE7#8

/-- How many bytes each row reads (R145). -/
def CalRow.len : CalRow → Nat
  | .t1 => 2
  | .t2 => 2
  | .t3 => 2
  | .p1 => 2
  | .p2 => 2
  | .p3 => 2
  | .p4 => 2
  | .p5 => 2
  | .p6 => 2
  | .p7 => 2
  | .p8 => 2
  | .p9 => 2
  | .h1 => 1
  | .h2 => 2
  | .h3 => 1
  | .e4 => 1
  | .h4 => 1
  | .e5b => 1
  | .h5 => 1
  | .h6 => 1

/-- The row after this one (R145). -/
def CalRow.next : CalRow → Option CalRow
  | .t1 => some .t2
  | .t2 => some .t3
  | .t3 => some .p1
  | .p1 => some .p2
  | .p2 => some .p3
  | .p3 => some .p4
  | .p4 => some .p5
  | .p5 => some .p6
  | .p6 => some .p7
  | .p7 => some .p8
  | .p8 => some .p9
  | .p9 => some .h1
  | .h1 => some .h2
  | .h2 => some .h3
  | .h3 => some .e4
  | .e4 => some .h4
  | .h4 => some .e5b
  | .e5b => some .h5
  | .h5 => some .h6
  | .h6 => none

/-- What each row does to the calibration store, from the bytes of its read and the local variables
(R145, R113 to R115). -/
def CalRow.load (c : Cal) (l : Locals) (b0 b1 : Byte) : CalRow → Cal
  | .t1 => { c with t1 := le16 b0 b1 }
  | .t2 => { c with t2 := le16 b0 b1 }
  | .t3 => { c with t3 := le16 b0 b1 }
  | .p1 => { c with p1 := le16 b0 b1 }
  | .p2 => { c with p2 := le16 b0 b1 }
  | .p3 => { c with p3 := le16 b0 b1 }
  | .p4 => { c with p4 := le16 b0 b1 }
  | .p5 => { c with p5 := le16 b0 b1 }
  | .p6 => { c with p6 := le16 b0 b1 }
  | .p7 => { c with p7 := le16 b0 b1 }
  | .p8 => { c with p8 := le16 b0 b1 }
  | .p9 => { c with p9 := le16 b0 b1 }
  | .h1 => { c with h1 := b0 }
  | .h2 => { c with h2 := le16 b0 b1 }
  | .h3 => { c with h3 := b0 }
  | .e4 => c
  | .h4 => { c with h4 := assembleH4 l.e4 b0 }
  | .e5b => c
  | .h5 => { c with h5 := assembleH5 l.e5b b0 }
  | .h6 => { c with h6 := b0 }

/-- The local variable a row sets: rows 16 and 18 keep their byte for the row after (R145). -/
def CalRow.keep (l : Locals) (b0 : Byte) : CalRow → Locals
  | .e4 => { l with e4 := b0 }
  | .e5b => { l with e5b := b0 }
  | .t1 | .t2 | .t3 | .p1 | .p2 | .p3 | .p4 | .p5 | .p6 | .p7 | .p8 | .p9 => l
  | .h1 | .h2 | .h3 | .h4 | .h5 | .h6 => l

/-! ### The six steps -/

/-- Acceptance and the first line (R140, R141): rejected when READY, with no port event. TFINE_SENT is cleared
here as R140 writes it (log 10). -/
def initEntry (s : State) : Host.Outcome State Fault Refusal :=
  if s.life = .ready then .next (raise .alreadyInitialized 0#32 s)
  else .next { s with calValid := false, tfineValid := false, tfineSent := false, cfgValid := false,
                      seq := .init .checkId }

/-- Step 1, the chip-ID check (R142, R271). -/
def initCheckId (s : State) : Host.Outcome State Fault Refusal :=
  match memRead Config.regId 1 s with
  | .waiting => .next s
  | .nack s' => .next (initNack Config.regId s')
  | .ack id _ _ s' =>
    if id = Config.chipId then .next { s' with seq := .init .reset }
    else .next (initFail .wrongDevice (zext 32 id) s')

/-- Step 2, the soft reset (R143). -/
def initReset (s : State) : Host.Outcome State Fault Refusal :=
  match memWrite Config.regReset Config.resetCode s with
  | .waiting => .next s
  | .nack s' => .next (initNack Config.regReset s')
  | .done s' => .next { s' with seq := .init .resetSettle }

/-- Step 2, the settle delay, and `POLLS <- 0` after it (R140, R143). -/
def initResetSettle (s : State) : Host.Outcome State Fault Refusal :=
  match delay .tResetSettle s with
  | none => .next s
  | some s' => .next { s' with polls := 0, seq := .init .poll }

/-- What a status read that found bit 0 set leads to (R144, R272). -/
def initBusy (s : State) : State :=
  let s' := { s with polls := s.polls + 1 }
  if s'.polls = s'.calPollLimit then initFail .calibrationTimeout (BitVec.ofNat 32 s'.polls) s'
  else { s' with seq := .init .pollWait }

/-- Step 3, one status read: bit 0 alone decides (R144). -/
def initPoll (s : State) : Host.Outcome State Fault Refusal :=
  match memRead Config.regStatus 1 s with
  | .waiting => .next s
  | .nack s' => .next (initNack Config.regStatus s')
  | .ack st _ _ s' =>
    if st.getLsbD 0 then .next (initBusy s') else .next { s' with seq := .init (.loadCal .t1) }

/-- Step 3, the delay between polls (R144). -/
def initPollWait (s : State) : Host.Outcome State Fault Refusal :=
  match delay .tPollInterval s with
  | none => .next s
  | some s' => .next { s' with seq := .init .poll }

/-- Step 4, one row of the calibration load; after the last, `CAL_VALID <- 1` and the entry of `ApplyConfig`
(R145, R183). -/
def initLoadCal (r : CalRow) (s : State) : Host.Outcome State Fault Refusal :=
  match memRead r.addr r.len s with
  | .waiting => .next s
  | .nack s' => .next (initNack r.addr s')
  | .ack b0 b1 _ s' =>
    let s'' := { s' with cal := r.load s'.cal s'.tmp b0 b1, tmp := r.keep s'.tmp b0 }
    match r.next with
    | some r' => .next { s'' with seq := .init (.loadCal r') }
    | none => .next { applyConfigEntry { s'' with calValid := true } with seq := .init (.applyDefault .ctrlHum) }

/-- Step 5, one write of the default configuration (R146). -/
def initApplyDefault (w : CfgWrite) (s : State) : Host.Outcome State Fault Refusal :=
  match applyConfigWrite Config.defaultConfig w s with
  | .waiting => .next s
  | .nack s' => .next (initNack w.addr s')
  | .done s' =>
    match w.next with
    | some w' => .next { s' with seq := .init (.applyDefault w') }
    | none => .next { s' with seq := .init .finalSettle }

/-- Step 6, the final settle, after which the instance is READY (R147, R149). -/
def initFinalSettle (s : State) : Host.Outcome State Fault Refusal :=
  match delay .tInitSettle s with
  | none => .next s
  | some s' => .next { s' with life := .ready, failCode := 0#4, seq := .init .respond }

/-- INIT at one of its own positions (R140, R149). -/
def initAt (p : InitPos) (s : State) : Host.Outcome State Fault Refusal :=
  match p with
  | .checkId => initCheckId s
  | .reset => initReset s
  | .resetSettle => initResetSettle s
  | .poll => initPoll s
  | .pollWait => initPollWait s
  | .loadCal r => initLoadCal r s
  | .applyDefault w => initApplyDefault w s
  | .finalSettle => initFinalSettle s
  | .respond => .next (respondOk 0#32 0#3 s)

/-- INIT (R140). -/
def execInit (s : State) : Host.Outcome State Fault Refusal :=
  match s.seq with
  | .idle => initEntry s
  | .init p => initAt p s
  | .configure _ => .fault .foreignSequencer
  | .readT _ => .fault .foreignSequencer
  | .readP _ => .fault .foreignSequencer
  | .readH _ => .fault .foreignSequencer

end Sys2Proof.Machine
end

