-- ==== Sys2Proof/Machine/Readout.lean ====
section
/-! DEFINITION. The readout family: `RefreshT`, READ_T, READ_P and READ_H (spec/43_readout.md R240 to R249). -/

namespace Sys2Proof.Machine

/-- `RefreshT()` up to what its caller does with `(T, sentinel)` (R244). A NACK makes the fine temperature
invalid and ends the command (R248). To need `CAL` while `CAL_VALID` is 0 is the fault the spec names, `UnwrittenRead`
(R33, R148; U12, D24). -/
def refreshT (caller : S32 → Bool → State → State) (s : State) : Host.Outcome State Fault Refusal :=
  match memRead Config.regTemp 3 s with
  | .waiting => .next s
  | .nack s' => .next (raise .transportError (zext 32 Config.regTemp) { s' with tfineValid := false })
  | .ack b0 b1 b2 s' =>
    match readCal s' with
    | none => .fault (.unwrittenRead .cal)
    | some c =>
      let code := code24 b0 b1 b2
      let r := compT c (adc20 code)
      .next (caller r.1 (isSentinel24 code)
        { s' with tfine := r.2, tfineValid := true, tfineSent := isSentinel24 code })

/-- Keep what a readout will respond with, and stand at its `respond` (R21, R241 to R243; log 8). -/
def holdResult (value : Word) (flags : BitVec 3) (respondAt : Seq) (s : State) : State :=
  { s with tmp := { s.tmp with value := value, flags := flags }, seq := respondAt }

/-- The read of `REG_PRESS` and COMP_P (R242). To need `CAL` or `TFINE` while its validity bit is 0 is the fault the
spec names, `UnwrittenRead` (R33, R148, R248; U12, D24). -/
def convertP (s : State) : Host.Outcome State Fault Refusal :=
  match memRead Config.regPress 3 s with
  | .waiting => .next s
  | .nack s' => .next (raise .transportError (zext 32 Config.regPress) s')
  | .ack b0 b1 b2 s' =>
    match readCal s', readTFine s' with
    | none, _ => .fault (.unwrittenRead .cal)
    | some _, none => .fault (.unwrittenRead .tfine)
    | some c, some tf =>
      let code := code24 b0 b1 b2
      let r := compP c (adc20 code) tf
      .next (holdResult r.1 (flagWord (isSentinel24 code) s'.tfineSent r.2) (.readP .respond) s')

/-- The read of `REG_HUM` and COMP_H (R243). To need `CAL` or `TFINE` while its validity bit is 0 is the fault the
spec names, `UnwrittenRead` (R33, R148, R248; U12, D24). -/
def convertH (s : State) : Host.Outcome State Fault Refusal :=
  match memRead Config.regHum 2 s with
  | .waiting => .next s
  | .nack s' => .next (raise .transportError (zext 32 Config.regHum) s')
  | .ack b0 b1 _ s' =>
    match readCal s', readTFine s' with
    | none, _ => .fault (.unwrittenRead .cal)
    | some _, none => .fault (.unwrittenRead .tfine)
    | some c, some tf =>
      let code := code16 b0 b1
      .next (holdResult (compH c (adc16 code) tf) (flagWord (isSentinel16 code) s'.tfineSent false)
        (.readH .respond) s')

/-- The checks at the entry of a readout with no port event: lifecycle, then freshness (R242, R243, R245,
R278); `temp` and `own` are its positions at the temperature read and at its own channel's read. -/
def readoutEntry (fresh : Bool) (temp own : Seq) (s : State) : Host.Outcome State Fault Refusal :=
  if s.life ≠ .ready then .next (raise .notInitialized 0#32 s)
  else if fresh then .next { s with seq := temp }
  else if s.tfineValid = false then .next (raise .staleFineTemperature 0#32 s)
  else .next { s with seq := own }

/-- READ_T (R241): as a readout whose own channel is the temperature, it needs no fresh `TFINE`. -/
def execReadT (s : State) : Host.Outcome State Fault Refusal :=
  match s.seq with
  | .idle =>
    if s.life ≠ .ready then .next (raise .notInitialized 0#32 s) else .next { s with seq := .readT .temp }
  | .readT .temp => refreshT (fun t sent => holdResult (asU32 t) (flagWord sent sent false) (.readT .respond)) s
  | .readT .respond => .next (respondOk s.tmp.value s.tmp.flags s)
  | .init _ => .fault .foreignSequencer
  | .configure _ => .fault .foreignSequencer
  | .readP _ => .fault .foreignSequencer
  | .readH _ => .fault .foreignSequencer

/-- READ_P (R242). -/
def execReadP (fresh : Bool) (s : State) : Host.Outcome State Fault Refusal :=
  match s.seq with
  | .idle => readoutEntry fresh (.readP .temp) (.readP .press) s
  | .readP .temp => refreshT (fun _ _ s' => { s' with seq := .readP .press }) s
  | .readP .press => convertP s
  | .readP .respond => .next (respondOk s.tmp.value s.tmp.flags s)
  | .init _ => .fault .foreignSequencer
  | .configure _ => .fault .foreignSequencer
  | .readT _ => .fault .foreignSequencer
  | .readH _ => .fault .foreignSequencer

/-- READ_H (R243). -/
def execReadH (fresh : Bool) (s : State) : Host.Outcome State Fault Refusal :=
  match s.seq with
  | .idle => readoutEntry fresh (.readH .temp) (.readH .hum) s
  | .readH .temp => refreshT (fun _ _ s' => { s' with seq := .readH .hum }) s
  | .readH .hum => convertH s
  | .readH .respond => .next (respondOk s.tmp.value s.tmp.flags s)
  | .init _ => .fault .foreignSequencer
  | .configure _ => .fault .foreignSequencer
  | .readT _ => .fault .foreignSequencer
  | .readP _ => .fault .foreignSequencer

end Sys2Proof.Machine
end

