-- ==== Sys2Proof/Machine/Dispatch.lean ====
section
/-! DEFINITION. `exec`: the meaning of each command at the block's sequencer position. -/

namespace Sys2Proof.Machine

def exec (i : Instr) (s : State) : Host.Outcome State Fault Refusal :=
  match i with
  | .init => Sys2Proof.Machine.execInit s
  | .configure md ot opr oh flt sb => Sys2Proof.Machine.execConfigure md ot opr oh flt sb s
  | .readT => Sys2Proof.Machine.execReadT s
  | .readP fresh => Sys2Proof.Machine.execReadP fresh s
  | .readH fresh => Sys2Proof.Machine.execReadH fresh s

end Sys2Proof.Machine
end

