-- ==== Sys2Proof/Machine/Sequencer.lean ====
section
/-! DEFINITION. What the block does in one step: accept a word, or perform the executing command's next
statement (spec/10_state.md R21, R22, spec/60_exceptions.md R289). -/

namespace Sys2Proof.Machine

/-- Accept a word and begin: an illegal one is answered at once (R274), a command runs its entry (R278; log 2). -/
def acceptStep (w : Word) (rest : List Word) (s : State) : Host.Outcome State Fault Refusal :=
  match decode w with
  | .illegal _ => .next (raise .illegalCommand w (accept w rest s))
  | .command i => exec i (accept w rest s)

/-- The next statement of the command that `CMD` holds. -/
def continueStep (s : State) : Host.Outcome State Fault Refusal :=
  match decode s.cmd with
  | .illegal _ => .fault .noCommand
  | .command i => exec i s

/-- One step of the block; idle with no word offered, it waits (R289, R301). -/
def blockStep (s : State) : Host.Outcome State Fault Refusal :=
  if s.busy then continueStep s
  else
    match s.hostQueue with
    | [] => .next s
    | w :: rest => acceptStep w rest s

/-- Whose move it is: a requested block reset, a move of the device at the head of the bus port's schedule,
or the block (log 12, log 13). -/
def machineStep (s : State) : Host.Outcome State Fault Refusal :=
  if s.resetReq then .next (blockReset s)
  else
    match s.busQueue with
    | .move m :: rest => .next (deviceMove m rest s)
    | _ => blockStep s

end Sys2Proof.Machine
end

