-- ==== Sys2Proof/Machine/Step.lean ====
section
/-! DEFINITION. `step`, and where a word stands for the next step to run it. -/

namespace Sys2Proof.Machine

/-- One step of the machine. -/
def step (s : State) : Host.Outcome State Fault Refusal := machineStep s

/-- `s` with the word whose bits are `w` at the head of the host port and the block idle, so that the next
step accepts and begins it (R289; log 21). -/
def State.withFetchWord (s : State) (nbits w : Nat) : State := placeWord (tableWord nbits w) s

end Sys2Proof.Machine
end

