-- ==== Sys2Proof/Machine/Assembler.lean ====
section
/-! DEFINITION. The assembler syntax of spec/30_encoding.md R118 and R119: one command a line, `;` starting a
comment. A line is a list of characters. -/

namespace Sys2Proof.Machine

/-- A token: a run of characters, or one comma. -/
abbrev Token := List Char

/-- Mode names (R104). -/
def modeNames : List (Token × BitVec 2) :=
  [("SLEEP".toList, Mode.sleep), ("FORCED".toList, Mode.forced), ("NORMAL".toList, Mode.normal)]

/-- Oversampling names (R105). -/
def osrsNames : List (Token × BitVec 3) :=
  [("SKIP".toList, Osrs.skip), ("X1".toList, Osrs.x1), ("X2".toList, Osrs.x2), ("X4".toList, Osrs.x4),
   ("X8".toList, Osrs.x8), ("X16".toList, Osrs.x16)]

/-- Filter names (R106). -/
def filterNames : List (Token × BitVec 3) :=
  [("OFF".toList, Iir.off), ("F2".toList, Iir.f2), ("F4".toList, Iir.f4), ("F8".toList, Iir.f8),
   ("F16".toList, Iir.f16)]

/-- Standby names (R107). -/
def standbyNames : List (Token × BitVec 3) :=
  [("SB_0P5".toList, Standby.sb0p5), ("SB_62P5".toList, Standby.sb62p5), ("SB_125".toList, Standby.sb125),
   ("SB_250".toList, Standby.sb250), ("SB_500".toList, Standby.sb500), ("SB_1000".toList, Standby.sb1000),
   ("SB_10".toList, Standby.sb10), ("SB_20".toList, Standby.sb20)]

/-- The code of a name. -/
def codeOf {n : Nat} (names : List (Token × BitVec n)) (t : Token) : Option (BitVec n) :=
  match names with
  | [] => none
  | (name, c) :: rest => if name = t then some c else codeOf rest t

/-- The name of a code. -/
def nameOf {n : Nat} (names : List (Token × BitVec n)) (code : BitVec n) : Option Token :=
  match names with
  | [] => none
  | (name, c) :: rest => if c = code then some name else nameOf rest code

/-- The token read so far, if there is one. -/
def flushToken (cur : Token) : List Token := if cur = [] then [] else [cur.reverse]

/-- A line's tokens: spaces and tabs separate, a comma is a token of its own, `;` ends the line
(R118; log 28). -/
def lexLine (cur : Token) : List Char → List Token
  | [] => flushToken cur
  | c :: cs =>
    if c = ';' then flushToken cur
    else if c = ' ' ∨ c = '\t' then flushToken cur ++ lexLine [] cs
    else if c = ',' then flushToken cur ++ [','] :: lexLine [] cs
    else lexLine (c :: cur) cs

/-- What a line is: nothing, one command, or an assembly error (R118). -/
inductive AsmLine where
  | blank
  | command (i : Instr)
  | error
deriving DecidableEq, Repr

/-- The command of a mnemonic without operands (R118). -/
def plainCommand (op : Token) : AsmLine :=
  if op = "INIT".toList then .command .init
  else if op = "READ_T".toList then .command .readT
  else if op = "READ_P".toList then .command (.readP false)
  else if op = "READ_P.FRESH".toList then .command (.readP true)
  else if op = "READ_H".toList then .command (.readH false)
  else if op = "READ_H.FRESH".toList then .command (.readH true)
  else .error

/-- CONFIGURE from its six names, in the order mode, osrs_t, osrs_p, osrs_h, filter, standby (R118). -/
def configureCommand (md ot opr oh flt sb : Token) : AsmLine :=
  match codeOf modeNames md, codeOf osrsNames ot, codeOf osrsNames opr, codeOf osrsNames oh,
    codeOf filterNames flt, codeOf standbyNames sb with
  | some md, some ot, some opr, some oh, some flt, some sb => .command (.configure md ot opr oh flt sb)
  | _, _, _, _, _, _ => .error

/-- What a line's tokens say. -/
def assembleTokens : List Token → AsmLine
  | [] => .blank
  | [op] => plainCommand op
  | [op, md, c1, ot, c2, opr, c3, oh, c4, flt, c5, sb] =>
    if op = "CONFIGURE".toList ∧ [c1, c2, c3, c4, c5] = List.replicate 5 [','] then
      configureCommand md ot opr oh flt sb
    else .error
  | _ => .error

/-- Assemble one line (R118). -/
def assembleLine (line : List Char) : AsmLine := assembleTokens (lexLine [] line)

/-- The tokens that write a command down, where every operand has a name (R118). -/
def tokensOf : Instr → Option (List Token)
  | .init => some ["INIT".toList]
  | .configure md ot opr oh flt sb =>
    match nameOf modeNames md, nameOf osrsNames ot, nameOf osrsNames opr, nameOf osrsNames oh,
      nameOf filterNames flt, nameOf standbyNames sb with
    | some md, some ot, some opr, some oh, some flt, some sb =>
      some ["CONFIGURE".toList, md, [','], ot, [','], opr, [','], oh, [','], flt, [','], sb]
    | _, _, _, _, _, _ => none
  | .readT => some ["READ_T".toList]
  | .readP false => some ["READ_P".toList]
  | .readP true => some ["READ_P.FRESH".toList]
  | .readH false => some ["READ_H".toList]
  | .readH true => some ["READ_H.FRESH".toList]

end Sys2Proof.Machine
end

