-- ==== Sys2Proof/Safety.lean ====
section
/-! DEFINITION. The terms claims are stated in: what the ports answer, several steps of one command, the
invariants of the machine (spec/10_state.md R35, R21, R25), and the order of events a run keeps
(spec/70_reset_and_hazards.md R304 to R306, spec/60_exceptions.md R289). -/

namespace Sys2Proof.Machine

/-! ### Answers of the bus port -/

/-- The three bytes an answer gives a read at `addr` from the device `d`, if it is an ACK; an `n`-byte read
uses the first `n` (R70). -/
def BusAnswer.bytes (d : Device) (addr : Byte) : BusAnswer → Option (Byte × Byte × Byte)
  | .nack => none
  | .ack b0 b1 b2 => some (b0, b1, b2)
  | .device _ => some (d.read addr, d.read (addr + 1#8), d.read (addr + 2#8))

/-- Whether an answer acknowledges a write, and then whether the device takes a configuration write in Normal
mode (R71, R86). -/
def BusAnswer.takes : BusAnswer → Option Bool
  | .nack => none
  | .ack _ _ _ => some true
  | .device k => some k

/-- The bus port has no answer for the block: nothing is scheduled, or a move of the device comes first. -/
def BusItem.silent : List BusItem → Bool
  | .answer _ :: _ => false
  | .move _ :: _ => true
  | [] => true

/-! ### Several steps of a command -/

/-- `k` statements of command `i`, stopping at the first fault or refusal. -/
def execTimes (i : Instr) : Nat → State → Host.Outcome State Fault Refusal
  | 0, s => .next s
  | k + 1, s =>
    match exec i s with
    | .next s' => execTimes i k s'
    | .fault f => .fault f
    | .refused r => .refused r

/-! ### Control -/

/-- The sequencer position belongs to the command (R21); a readout stands at the temperature read only with
its fresh bit set (R242, R243). -/
def seqFits (i : Instr) (q : Seq) : Bool :=
  match i, q with
  | .init, .init _ => true
  | .configure _ _ _ _ _ _, .configure _ => true
  | .readT, .readT _ => true
  | .readP f, .readP .temp => f
  | .readP _, .readP .press => true
  | .readP _, .readP .respond => true
  | .readH f, .readH .temp => f
  | .readH _, .readH .hum => true
  | .readH _, .readH .respond => true
  | _, _ => false

/-- Idle exactly when not busy, and busy at a position of the command in CMD (R21, R22). -/
def State.controlOk (s : State) : Bool :=
  if s.busy then
    match decode s.cmd with
    | .command i => seqFits i s.seq
    | .illegal _ => false
  else s.seq == .idle

/-- The next statement is a bus transaction. -/
def Seq.awaitsBus : Seq → Bool
  | .idle => false
  | .init .checkId => true
  | .init .reset => true
  | .init .resetSettle => false
  | .init .poll => true
  | .init .pollWait => false
  | .init (.loadCal _) => true
  | .init (.applyDefault _) => true
  | .init .finalSettle => false
  | .init .respond => false
  | .configure (.write _) => true
  | .configure .respond => false
  | .readT .temp => true
  | .readT .respond => false
  | .readP .temp => true
  | .readP .press => true
  | .readP .respond => false
  | .readH .temp => true
  | .readH .hum => true
  | .readH .respond => false

/-- The next statement is a delay. -/
def Seq.awaitsDelay : Seq → Bool
  | .init .resetSettle => true
  | .init .pollWait => true
  | .init .finalSettle => true
  | _ => false

/-- The next statement is a temperature conversion (R244). -/
def Seq.convertsT : Seq → Bool
  | .readT .temp => true
  | .readP .temp => true
  | .readH .temp => true
  | _ => false

/-! ### The last CONFIGURE, read from the record of events -/

/-- Whether a CONFIGURE is running, and whether the last one that ended failed with TransportError. -/
structure ConfigureLog where
  running : Bool
  failed : Bool
deriving DecidableEq, Repr

/-- The word is a CONFIGURE. -/
def isConfigure (w : Word) : Bool :=
  match decode w with
  | .command (.configure _ _ _ _ _ _) => true
  | .command .init => false
  | .command .readT => false
  | .command (.readP _) => false
  | .command (.readH _) => false
  | .illegal _ => false

def ConfigureLog.see (m : ConfigureLog) : Event → ConfigureLog
  | .accept w => { m with running := isConfigure w }
  | .response r => if m.running then { running := false, failed := r.status == 0x3#4 } else m
  | .read _ _ _ => m
  | .write _ _ _ => m
  | .delay _ => m

/-- What the events since block reset say of the last CONFIGURE. -/
def configureLog (es : List Event) : ConfigureLog := es.foldl ConfigureLog.see { running := false, failed := false }

/-! ### Registers -/

/-- READY has a valid configuration, unless the last CONFIGURE failed with TransportError (R35). -/
def State.shadowOk (s : State) : Bool := s.cfgValid || (configureLog s.events).failed

/-- The validity bits at idle (R35; its fourth item is part of `Inv`). -/
def State.idleOk (s : State) : Bool :=
  ((s.life == .ready) == s.calValid) && (!s.tfineValid || s.life == .ready) &&
  (!(s.life == .ready) || s.shadowOk)

/-- A readout or CONFIGURE runs only on a READY instance (R275). -/
def State.readyOk (s : State) : Bool := s.life == .ready && s.calValid

/-- INIT at a sub-state: which validity bits it has cleared and set, and the poll count below its limit
(R140, R144, R145, R147). -/
def State.initOk (p : InitPos) (s : State) : Bool :=
  !s.tfineValid &&
  match p with
  | .checkId => s.life != .ready && !s.calValid && !s.cfgValid
  | .reset => s.life != .ready && !s.calValid && !s.cfgValid
  | .resetSettle => s.life != .ready && !s.calValid && !s.cfgValid
  | .poll => s.life != .ready && !s.calValid && !s.cfgValid && decide (s.polls < s.calPollLimit)
  | .pollWait => s.life != .ready && !s.calValid && !s.cfgValid && decide (s.polls < s.calPollLimit)
  | .loadCal _ => s.life != .ready && !s.calValid && !s.cfgValid
  | .applyDefault _ => s.life != .ready && s.calValid && !s.cfgValid
  | .finalSettle => s.life != .ready && s.calValid && s.cfgValid
  | .respond => s.life == .ready && s.calValid && s.cfgValid

/-- The validity bits at every sequencer position. -/
def State.validityOk (s : State) : Bool :=
  match s.seq with
  | .idle => s.idleOk
  | .init p => s.initOk p
  | .configure (.write _) => s.readyOk && !s.tfineValid && !s.cfgValid
  | .configure .respond => s.readyOk && !s.tfineValid && s.cfgValid
  | .readT _ => s.readyOk && s.shadowOk
  | .readP .temp => s.readyOk && s.shadowOk
  | .readP .press => s.readyOk && s.shadowOk && s.tfineValid
  | .readP .respond => s.readyOk && s.shadowOk
  | .readH .temp => s.readyOk && s.shadowOk
  | .readH .hum => s.readyOk && s.shadowOk && s.tfineValid
  | .readH .respond => s.readyOk && s.shadowOk

/-- The sequencer stands in a CONFIGURE. -/
def Seq.isConfigure : Seq → Bool
  | .configure _ => true
  | .idle => false
  | .init _ => false
  | .readT _ => false
  | .readP _ => false
  | .readH _ => false

/-- A 12-bit signed value in 16 bits, as H4 and H5 are (R25). -/
def in12 (v : BitVec 16) : Bool := decide (-2048 ≤ v.toInt ∧ v.toInt ≤ 2047)

/-- The invariant of the machine. -/
structure State.Inv (s : State) : Prop where
  /-- R21, R22 -/
  control : s.controlOk = true
  /-- R35, R26, R28, R31 -/
  validity : s.validityOk = true
  /-- R35, R24 -/
  failed : s.life = .failed ↔ s.failCode ≠ 0#4
  /-- the record knows when a CONFIGURE is running -/
  record : (configureLog s.events).running = s.seq.isConfigure
  /-- R25 -/
  nibbles : in12 s.cal.h4 = true ∧ in12 s.cal.h5 = true
  /-- R270: codes 0x8 to 0xF are never produced -/
  codes : s.resp.status.toNat < 8 ∧ s.failCode.toNat < 8
  /-- R7 -/
  limit : 0 < s.calPollLimit ∧ s.calPollLimit < 2 ^ 32
  /-- the register space keeps its canonical form -/
  memory : Memory.wf s.dev.regs = true

/-! ### The order of events (R304 to R306) -/

/-- What the hazards of R304 to R306 depend on. `phase` is how many writes of a configuration sequence have
been acknowledged. -/
structure OrderLog where
  settling : Bool
  calReady : Bool
  phase : Nat
  ok : Bool
deriving DecidableEq, Repr

/-- A calibration register (R69). -/
def isCalibration (a : Byte) : Bool :=
  decide (0x88 ≤ a.toNat ∧ a.toNat ≤ 0x9F) || a == 0xA1#8 || decide (0xE1 ≤ a.toNat ∧ a.toNat ≤ 0xE7)

/-- A write of a configuration register in its turn: humidity control, configuration, measurement control. -/
def inTurn (phase : Nat) (a : Byte) : Bool :=
  if a = Config.regConfig then phase == 1 else if a = Config.regCtrlMeas then phase == 2 else true

/-- The phase after an acknowledged write. -/
def phaseAfter (a : Byte) : Nat :=
  if a = Config.regCtrlHum then 1 else if a = Config.regConfig then 2 else 0

def OrderLog.see (m : OrderLog) : Event → OrderLog
  | .accept _ => m
  | .response _ => { m with phase := 0 }
  | .delay d => { m with settling := m.settling && !(d == .tResetSettle) }
  | .read a _ answer =>
    let clear := match answer with
      | some (b :: _) => a == Config.regStatus && !b.getLsbD 0
      | some [] => false
      | none => false
    { m with phase := 0, calReady := m.calReady || clear,
             ok := m.ok && !m.settling && (!isCalibration a || m.calReady) }
  | .write a v ack =>
    let reset := ack && a == Config.regReset && v == Config.resetCode
    { settling := m.settling || reset, calReady := m.calReady && !reset,
      phase := if ack then phaseAfter a else 0,
      ok := m.ok && !m.settling && inTurn m.phase a }

/-- What the events since block reset say of the order rules; `ok` if none was broken. -/
def orderLog (es : List Event) : OrderLog :=
  es.foldl OrderLog.see { settling := false, calReady := false, phase := 0, ok := true }

/-- What the order rules need at a position: the phase of a configuration write, and a clear status read
before a calibration read. -/
def Seq.orderOk (m : OrderLog) : Seq → Bool
  | .init (.loadCal _) => m.calReady
  | .init (.applyDefault .config) => m.phase == 1
  | .init (.applyDefault .ctrlMeas) => m.phase == 2
  | .configure (.write .config) => m.phase == 1
  | .configure (.write .ctrlMeas) => m.phase == 2
  | _ => true

/-- The events so far keep R304 to R306, and the position is one from which they stay kept. -/
structure State.Ordered (s : State) : Prop where
  kept : (orderLog s.events).ok = true
  settling : (orderLog s.events).settling = true ↔ s.seq = .init .resetSettle
  position : s.seq.orderOk (orderLog s.events) = true

/-! ### One response a word (R289) -/

def isAccept : Event → Bool
  | .accept _ => true
  | .read _ _ _ => false
  | .write _ _ _ => false
  | .delay _ => false
  | .response _ => false

def isResponse : Event → Bool
  | .response _ => true
  | .accept _ => false
  | .read _ _ _ => false
  | .write _ _ _ => false
  | .delay _ => false

/-- Every accepted word has had its one response, but for the one being executed. -/
def State.Answered (s : State) : Prop :=
  s.events.countP isAccept = s.events.countP isResponse + s.busy.toNat

/-- A bus transaction or a delay: a port event in the sense of R278 and R279. -/
def isPortEvent : Event → Bool
  | .read _ _ _ => true
  | .write _ _ _ => true
  | .delay _ => true
  | .accept _ => false
  | .response _ => false

/-! ### What a command leaves alone -/

/-- Two states agree on the registers that no readout and no CONFIGURE writes (R37). -/
def sameLifecycle (s t : State) : Prop :=
  t.life = s.life ∧ t.failCode = s.failCode ∧ t.cal = s.cal ∧ t.calValid = s.calValid ∧ t.polls = s.polls

/-- Two states agree on the configuration shadow. -/
def sameShadow (s t : State) : Prop := t.cfg = s.cfg ∧ t.cfgValid = s.cfgValid

/-- Two states agree on the fine temperature. -/
def sameFine (s t : State) : Prop := t.tfine = s.tfine ∧ t.tfineValid = s.tfineValid ∧ t.tfineSent = s.tfineSent

/-- Two states agree on what no command writes: the word it runs, the parameter, the host's words, a pending
reset. -/
def sameOutside (s t : State) : Prop :=
  t.cmd = s.cmd ∧ t.calPollLimit = s.calPollLimit ∧ t.hostQueue = s.hostQueue ∧ t.resetReq = s.resetReq

/-- Every byte of the register space but those at `addrs` is as before. -/
def sameBytesBut (addrs : List Nat) (d e : Device) : Prop :=
  ∀ a, a ∉ addrs → Memory.read e.regs a = Memory.read d.regs a

/-- What a write of `REG_CTRL_MEAS` stores to: its own byte, the status byte, and the data registers of the
channels that are Skip afterwards (R66, R68; log 18, log 20). Every other byte is as before. -/
def ctrlMeasStores (d e : Device) : Prop :=
  ∀ a, a ∉ [0xF4, 0xF3] → e.skipped a = false → Memory.read e.regs a = Memory.read d.regs a

/-- A data register (R68). -/
def isData (a : Nat) : Bool := decide (0xF7 ≤ a ∧ a ≤ 0xFE)

/-! ### The names of the operand codes, as the tables of R104 to R107 list them -/

def modeCodes : List (String × BitVec 2) := [("SLEEP", 0b00#2), ("FORCED", 0b01#2), ("NORMAL", 0b11#2)]
def osrsCodes : List (String × BitVec 3) :=
  [("SKIP", 0b000#3), ("X1", 0b001#3), ("X2", 0b010#3), ("X4", 0b011#3), ("X8", 0b100#3), ("X16", 0b101#3)]
def filterCodes : List (String × BitVec 3) :=
  [("OFF", 0b000#3), ("F2", 0b001#3), ("F4", 0b010#3), ("F8", 0b011#3), ("F16", 0b100#3)]
def standbyCodes : List (String × BitVec 3) :=
  [("SB_0P5", 0b000#3), ("SB_62P5", 0b001#3), ("SB_125", 0b010#3), ("SB_250", 0b011#3), ("SB_500", 0b100#3),
   ("SB_1000", 0b101#3), ("SB_10", 0b110#3), ("SB_20", 0b111#3)]

/-- A token is one of a table's names. -/
def isName {n : Nat} (table : List (String × BitVec n)) (t : Token) : Bool := table.any (fun x => x.1.toList == t)

/-- The tokens of a CONFIGURE line with these operand names (R118). -/
def configureTokens (md ot opr oh flt sb : Token) : List Token :=
  ["CONFIGURE".toList, md, [','], ot, [','], opr, [','], oh, [','], flt, [','], sb]

/-- Calibration set A, the coefficients of the examples of R201 to R203 (spec/95_test_vectors.md 0). -/
def Cal.setA : Cal :=
  { t1 := 27504#16, t2 := 26435#16, t3 := -1000#16, p1 := 36477#16, p2 := -10685#16, p3 := 3024#16,
    p4 := 2855#16, p5 := 140#16, p6 := -7#16, p7 := 15500#16, p8 := -14600#16, p9 := 6000#16,
    h1 := 75#8, h2 := 362#16, h3 := 0#8, h4 := 313#16, h5 := 50#16, h6 := 30#8 }

/-! ### INIT as a whole: its transactions, its transitions and its events -/

/-- The bytes of one acknowledged transaction whose first byte is `b`. -/
def drawn (b : Byte) : BusItem := .answer (.ack b 0#8 0#8)

/-- The table of R145: each row with the address and the size of its read, in order. -/
def calTable : List (CalRow × Byte × Nat) :=
  [(.t1, 0x88#8, 2), (.t2, 0x8A#8, 2), (.t3, 0x8C#8, 2), (.p1, 0x8E#8, 2), (.p2, 0x90#8, 2), (.p3, 0x92#8, 2),
   (.p4, 0x94#8, 2), (.p5, 0x96#8, 2), (.p6, 0x98#8, 2), (.p7, 0x9A#8, 2), (.p8, 0x9C#8, 2), (.p9, 0x9E#8, 2),
   (.h1, 0xA1#8, 1), (.h2, 0xE1#8, 2), (.h3, 0xE3#8, 1), (.e4, 0xE4#8, 1), (.h4, 0xE5#8, 1), (.e5b, 0xE5#8, 1),
   (.h5, 0xE6#8, 1), (.h6, 0xE7#8, 1)]

/-- The coefficients that the bytes `f r` of the twenty reads assemble to (R145, R113 to R115): H4 from the
reads 16 and 17, H5 from the reads 18 and 19. -/
def calOf (f : CalRow → Byte × Byte × Byte) : Cal :=
  let le (r : CalRow) : BitVec 16 := (f r).2.1 ++ (f r).1
  { t1 := le .t1, t2 := le .t2, t3 := le .t3, p1 := le .p1, p2 := le .p2, p3 := le .p3, p4 := le .p4,
    p5 := le .p5, p6 := le .p6, p7 := le .p7, p8 := le .p8, p9 := le .p9, h1 := (f .h1).1, h2 := le .h2,
    h3 := (f .h3).1, h4 := assembleH4 (f .e4).1 (f .h4).1, h5 := assembleH5 (f .e5b).1 (f .h5).1, h6 := (f .h6).1 }

/-- The events of the twenty reads. -/
def calReads (f : CalRow → Byte × Byte × Byte) : List Event :=
  calTable.map fun x => .read x.2.1 x.2.2 (some ([(f x.1).1, (f x.1).2.1].take x.2.2))

/-- The transaction of an INIT position: its address, and its event when answered NACK (R140, R145, R146). -/
def initRequest : InitPos → Option (Byte × Event)
  | .checkId => some (0xD0#8, .read 0xD0#8 1 none)
  | .reset => some (0xE0#8, .write 0xE0#8 0xB6#8 false)
  | .poll => some (0xF3#8, .read 0xF3#8 1 none)
  | .loadCal r => some (r.addr, .read r.addr r.len none)
  | .applyDefault .ctrlHum => some (0xF2#8, .write 0xF2#8 0x05#8 false)
  | .applyDefault .config => some (0xF5#8, .write 0xF5#8 0x00#8 false)
  | .applyDefault .ctrlMeas => some (0xF4#8, .write 0xF4#8 0xB7#8 false)
  | .resetSettle => none
  | .pollWait => none
  | .finalSettle => none
  | .respond => none

/-- The transitions of R149 out of an INIT sub-state, other than to FAILED. -/
def initEdge (p q : InitPos) : Prop :=
  match p with
  | .checkId => q = .reset
  | .reset => q = .resetSettle
  | .resetSettle => q = .poll
  | .poll => q = .loadCal .t1 ∨ q = .pollWait
  | .pollWait => q = .poll
  | .loadCal .h6 => q = .applyDefault .ctrlHum
  | .loadCal r => ∃ r', r.next = some r' ∧ q = .loadCal r'
  | .applyDefault .ctrlHum => q = .applyDefault .config
  | .applyDefault .config => q = .applyDefault .ctrlMeas
  | .applyDefault .ctrlMeas => q = .finalSettle
  | .finalSettle => q = .respond
  | .respond => False

/-- The answers of an INIT that succeeds: the chip ID, the reset write, the busy status reads, the clear one, the
twenty calibration reads, the three configuration writes; `rest` comes after. -/
def initAnswers (busy : List Byte) (st : Byte) (f : CalRow → Byte × Byte × Byte) (rest : List BusItem) :
    List BusItem :=
  let cal : List BusItem := calTable.map fun x => .answer (.ack (f x.1).1 (f x.1).2.1 (f x.1).2.2)
  drawn 0x60#8 :: drawn 0#8 ::
    (busy.map drawn ++ drawn st :: (cal ++ drawn 0#8 :: drawn 0#8 :: drawn 0#8 :: rest))

/-- The events of that INIT (the example of R140, with its poll loop). -/
def initEvents (busy : List Byte) (st : Byte) (f : CalRow → Byte × Byte × Byte) : List Event :=
  let polls : List Event := busy.flatMap fun b => [.read 0xF3#8 1 (some [b]), .delay .tPollInterval]
  .read 0xD0#8 1 (some [0x60#8]) :: .write 0xE0#8 0xB6#8 true :: .delay .tResetSettle ::
    (polls ++ .read 0xF3#8 1 (some [st]) ::
      (calReads f ++ [.write 0xF2#8 0x05#8 true, .write 0xF5#8 0x00#8 true, .write 0xF4#8 0xB7#8 true,
        .delay .tInitSettle, .response { status := 0#4, value := 0#32, flags := 0#3 }]))

end Sys2Proof.Machine
end

