-- ==== Sys2Proof/Safety/IntegerFormulas.lean ====
section
/-! DEFINITION. The operators of spec/00_scope.md R10 and the compensation functions of
spec/42_compensation.md R201 to R206 written over the integers, as those rules write them: every operand is the
number it denotes, every result is reduced by `wrapN`. The claims compare the machine's functions with these. -/

namespace Sys2Proof.Machine.Exact

/-- `a +N b` (R10). -/
def add (n : Nat) (a b : Int) : Int := wrapN n (a + b)
/-- `a -N b` (R10). -/
def sub (n : Nat) (a b : Int) : Int := wrapN n (a - b)
/-- `a *N b` (R10). -/
def mul (n : Nat) (a b : Int) : Int := wrapN n (a * b)
/-- `a <<N k` (R10). -/
def shl (n : Nat) (a : Int) (k : Nat) : Int := wrapN n (a * 2 ^ k)
/-- `a >>N k`, the floor of `a / 2^k` (R10). -/
def asr (a : Int) (k : Nat) : Int := Int.fdiv a (2 ^ k)
/-- `a /N b`, the truncated quotient, wrapped (R10). -/
def div (n : Nat) (a b : Int) : Int := wrapN n (Int.tdiv a b)
/-- `asU32(s)`: the number that bits 31..0 of the pattern denote (R9). -/
def u32 (s : Int) : Int := s % 2 ^ 32

/-- `tf` of COMP_T (R201). -/
def fine (c : Cal) (adcT : Int) : Int :=
  let t1 : Int := c.t1.toNat
  let var1 := asr (mul 32 (sub 32 (asr adcT 3) (shl 32 t1 1)) c.t2.toInt) 11
  let d := sub 32 (asr adcT 4) t1
  let var2 := asr (mul 32 (asr (mul 32 d d) 12) c.t3.toInt) 14
  add 32 var1 var2

/-- `T` of COMP_T (R201). -/
def centi (tf : Int) : Int := asr (add 32 (mul 32 tf 5) 128) 8

/-- `v1` of COMP_P after its sixth line (R202). -/
def divisor (c : Cal) (tf : Int) : Int :=
  let v1 := sub 64 tf 128000
  let v1 := add 64 (asr (mul 64 (mul 64 v1 v1) c.p3.toInt) 8) (shl 64 (mul 64 v1 c.p2.toInt) 12)
  asr (mul 64 (add 64 (shl 64 1 47) v1) c.p1.toNat) 33

/-- The s64 `p` of COMP_P after its last line (R202). -/
def quotient (c : Cal) (adcP tf : Int) : Int :=
  let v1 := sub 64 tf 128000
  let v2 := mul 64 (mul 64 v1 v1) c.p6.toInt
  let v2 := add 64 v2 (shl 64 (mul 64 v1 c.p5.toInt) 17)
  let v2 := add 64 v2 (shl 64 c.p4.toInt 35)
  let p := sub 64 1048576 adcP
  let p := div 64 (mul 64 (sub 64 (shl 64 p 31) v2) 3125) (divisor c tf)
  let v1 := asr (mul 64 (mul 64 c.p9.toInt (asr p 13)) (asr p 13)) 25
  let v2 := asr (mul 64 c.p8.toInt p) 19
  add 64 (asr (add 64 (add 64 p v1) v2) 8) (shl 64 c.p7.toInt 4)

/-- `v` of COMP_H before the clamp (R203). -/
def preClamp (c : Cal) (adcH tf : Int) : Int :=
  let h1 : Int := c.h1.toNat
  let h3 : Int := c.h3.toNat
  let v := sub 32 tf 76800
  let a := asr (add 32 (sub 32 (sub 32 (shl 32 adcH 14) (shl 32 c.h4.toInt 20)) (mul 32 c.h5.toInt v)) 16384) 15
  let b := asr (mul 32 v c.h6.toInt) 10
  let k := add 32 (asr (mul 32 v h3) 11) 32768
  let e := asr (add 32 (mul 32 (add 32 (asr (mul 32 b k) 10) 2097152) c.h2.toInt) 8192) 14
  let w := mul 32 a e
  sub 32 w (asr (mul 32 (asr (mul 32 (asr w 15) (asr w 15)) 7) h1) 4)

/-- The clamp of R206 and the final shift (R203). -/
def humidity (c : Cal) (adcH tf : Int) : Int :=
  let v := preClamp c adcH tf
  asr (if v < 0 then 0 else if v > 419430400 then 419430400 else v) 12

end Sys2Proof.Machine.Exact
end

