-- ==== Sys2Proof/Certificates/Slice0/Obligations.lean ====
section
/-! DEFINITION. The statements for the provers. Each docstring names the rule of spec/ it formalises. Where a
statement gives the whole next state of a step that ends a command, `CMD` keeps its word there: the model's choice
for an idle block (log 30). -/

open Sys2Proof Sys2Proof.Machine

/-! ### Encoding (spec/30_encoding.md) -/

/-- Words written out from the formats of R102, R103, R108 and R109 decode to what those rules say they are. -/
def Obligations.SpecWordsDecode : Prop :=
  decode 0x10000000#32 = .command .init ∧
  decode 0x200005B7#32 =
    .command (.configure Mode.normal Osrs.x16 Osrs.x16 Osrs.x16 Iir.off Standby.sb0p5) ∧
  decode 0x20016157#32 = .command (.configure Mode.normal Osrs.x2 Osrs.x16 Osrs.x1 Iir.f16 Standby.sb1000) ∧
  decode 0x30000000#32 = .command .readT ∧
  decode 0x40000000#32 = .command (.readP false) ∧
  decode 0x48000000#32 = .command (.readP true) ∧
  decode 0x50000000#32 = .command (.readH false) ∧
  decode 0x58000000#32 = .command (.readH true) ∧
  decode 0x38000000#32 = .illegal .mustBeZero

/-- R111: the decoder gives each command exactly on the words of its case, with the operands of its fields; a
word of no case is therefore illegal, since a decoded word is one or the other. -/
def Obligations.DecodeFollowsTable : Prop :=
  ∀ w : Word,
    (decode w = .command .init ↔ w.extractLsb' 28 4 = 1#4 ∧ w.extractLsb' 0 28 = 0#28) ∧
    (∀ md ot opr oh flt sb, decode w = .command (.configure md ot opr oh flt sb) ↔
      w.extractLsb' 28 4 = 2#4 ∧ w.extractLsb' 17 11 = 0#11 ∧
      md = w.extractLsb' 0 2 ∧ ot = w.extractLsb' 5 3 ∧ opr = w.extractLsb' 2 3 ∧ oh = w.extractLsb' 8 3 ∧
      flt = w.extractLsb' 11 3 ∧ sb = w.extractLsb' 14 3 ∧
      md ≠ 2#2 ∧ ot.toNat ≤ 5 ∧ opr.toNat ≤ 5 ∧ oh.toNat ≤ 5 ∧ flt.toNat ≤ 4) ∧
    (decode w = .command .readT ↔ w.extractLsb' 28 4 = 3#4 ∧ w.extractLsb' 0 28 = 0#28) ∧
    (∀ f, decode w = .command (.readP f) ↔
      w.extractLsb' 28 4 = 4#4 ∧ w.extractLsb' 0 27 = 0#27 ∧ f = w.getLsbD 27) ∧
    (∀ f, decode w = .command (.readH f) ↔
      w.extractLsb' 28 4 = 5#4 ∧ w.extractLsb' 0 27 = 0#27 ∧ f = w.getLsbD 27)

/-- R110 and R274: a word is illegal exactly when one of R110's conditions holds, and an illegal word is answered
ILLEGAL_COMMAND with the word as value, in the step that accepts it, whatever the lifecycle state, and nothing else
changes but the host port and the record. That acceptance and answer are one step is the model's reading (log 2).
That CMD keeps the word at the answer is the model's choice (log 30). -/
def Obligations.IllegalWordsAreRefused : Prop :=
  (∀ w : Word, (∃ why, decode w = .illegal why) ↔
    ((w.extractLsb' 28 4 = 0#4 ∨ 6 ≤ (w.extractLsb' 28 4).toNat) ∨
     ((w.extractLsb' 28 4 = 1#4 ∨ w.extractLsb' 28 4 = 3#4) ∧ w.extractLsb' 0 28 ≠ 0#28) ∨
     (w.extractLsb' 28 4 = 2#4 ∧ w.extractLsb' 17 11 ≠ 0#11) ∨
     ((w.extractLsb' 28 4 = 4#4 ∨ w.extractLsb' 28 4 = 5#4) ∧ w.extractLsb' 0 27 ≠ 0#27) ∨
     (w.extractLsb' 28 4 = 2#4 ∧
       (w.extractLsb' 0 2 = 2#2 ∨ 6 ≤ (w.extractLsb' 5 3).toNat ∨ 6 ≤ (w.extractLsb' 2 3).toNat ∨
        6 ≤ (w.extractLsb' 8 3).toNat ∨ 5 ≤ (w.extractLsb' 11 3).toNat)))) ∧
  (∀ (s : State) (w : Word) (rest : List Word) (why : IllegalReason),
    s.busy = false → s.resetReq = false → (∀ m q, s.busQueue ≠ .move m :: q) → s.hostQueue = w :: rest →
    decode w = .illegal why →
    step s = .next { s with
      hostQueue := rest, cmd := w, seq := .idle, busy := false,
      resp := { status := 4#4, value := w, flags := 0#3 }, respValid := true,
      events := s.events ++ [.accept w, .response { status := 4#4, value := w, flags := 0#3 }] })

/-- Decode and encode agree on every well-formed command, at every operand value (R102, R103, R108, R109). -/
def Obligations.DecodeOfEncode : Prop :=
  ∀ i : Instr, i.wellFormed = true → decode (encode i) = .command i

/-- Every word that decodes to a command is that command's encoding, and the command is well-formed. -/
def Obligations.EncodeOfDecode : Prop :=
  ∀ (w : Word) (i : Instr), decode w = .command i → encode i = w ∧ i.wellFormed = true

/-- R116: the three register images of a CONFIGURE, and that the word holds them at bits 10:8, 16:11 and 7:0. -/
def Obligations.ConfigureWordHoldsImages : Prop :=
  ∀ (w : Word) (md : BitVec 2) (ot opr oh flt sb : BitVec 3),
    decode w = .command (.configure md ot opr oh flt sb) →
    let c : SamplingConfig := { mode := md, osrsT := ot, osrsP := opr, osrsH := oh, filter := flt, tSb := sb }
    (imgCtrlHum c).toNat = oh.toNat ∧
    (imgConfig c).toNat = sb.toNat * 32 + flt.toNat * 4 ∧
    (imgCtrlMeas c).toNat = ot.toNat * 32 + opr.toNat * 4 + md.toNat ∧
    imgCtrlHum c = 0#5 ++ w.extractLsb' 8 3 ∧
    imgConfig c = w.extractLsb' 11 6 ++ 0#2 ∧
    imgCtrlMeas c = w.extractLsb' 0 8

/-- R118: "an assembler never produces an illegal word". The lexing of a line is the model's choice (log 28). -/
def Obligations.AssembledLinesAreLegal : Prop :=
  ∀ (line : List Char) (i : Instr), assembleLine line = .command i →
    i.wellFormed = true ∧ decode (encode i) = .command i

/-- R104 to R107, R118, R119: which command each line of tokens is, with the code of every operand name; a name
outside the lists is an error; and every well-formed command has a line of tokens that assembles to it. -/
def Obligations.TokensAssembleBack : Prop :=
  (∀ md ∈ modeCodes, ∀ ot ∈ osrsCodes, ∀ opr ∈ osrsCodes, ∀ oh ∈ osrsCodes, ∀ flt ∈ filterCodes,
    ∀ sb ∈ standbyCodes,
      assembleTokens (configureTokens md.1.toList ot.1.toList opr.1.toList oh.1.toList flt.1.toList sb.1.toList) =
        .command (.configure md.2 ot.2 opr.2 oh.2 flt.2 sb.2)) ∧
  (∀ md ot opr oh flt sb : Token,
    isName modeCodes md = false ∨ isName osrsCodes ot = false ∨ isName osrsCodes opr = false ∨
      isName osrsCodes oh = false ∨ isName filterCodes flt = false ∨ isName standbyCodes sb = false →
    assembleTokens (configureTokens md ot opr oh flt sb) = .error) ∧
  (assembleTokens ["INIT".toList] = .command .init ∧ assembleTokens ["READ_T".toList] = .command .readT ∧
    assembleTokens ["READ_P".toList] = .command (.readP false) ∧
    assembleTokens ["READ_P.FRESH".toList] = .command (.readP true) ∧
    assembleTokens ["READ_H".toList] = .command (.readH false) ∧
    assembleTokens ["READ_H.FRESH".toList] = .command (.readH true)) ∧
  (∀ i : Instr, i.wellFormed = true → ∃ ts, tokensOf i = some ts ∧ assembleTokens ts = .command i)

/-! ### Operand assembly -/

/-- R112: the raw codes as numbers; the low nibble of the third byte is discarded, and every code is
non-negative as an s32. -/
def Obligations.RawCodesAssemble : Prop :=
  ∀ b0 b1 b2 : Byte,
    (adc20 (code24 b0 b1 b2)).toInt = ((b0.toNat * 65536 + b1.toNat * 256 + b2.toNat) / 16 : Nat) ∧
    (adc16 (code16 b0 b1)).toInt = (b0.toNat * 256 + b1.toNat : Nat) ∧
    (adc20 (code24 b0 b1 b2)).toNat < 2 ^ 20 ∧ (adc16 (code16 b0 b1)).toNat < 2 ^ 16

/-- R113, R114, R115: the coefficients a calibration row loads, as numbers of their register's type. -/
def Obligations.CoefficientsAssemble : Prop :=
  ∀ (c : Cal) (l : Locals) (b0 b1 : Byte),
    (∀ r ∈ [CalRow.t1, .t2, .t3, .p1, .p2, .p3, .p4, .p5, .p6, .p7, .p8, .p9, .h2],
      ∃ x : BitVec 16, x.toNat = b1.toNat * 256 + b0.toNat ∧
        x.toInt = b1.toInt * 256 + b0.toNat ∧
        r.load c l b0 b1 = (match r with
          | .t1 => { c with t1 := x }
          | .t2 => { c with t2 := x }
          | .t3 => { c with t3 := x }
          | .p1 => { c with p1 := x }
          | .p2 => { c with p2 := x }
          | .p3 => { c with p3 := x }
          | .p4 => { c with p4 := x }
          | .p5 => { c with p5 := x }
          | .p6 => { c with p6 := x }
          | .p7 => { c with p7 := x }
          | .p8 => { c with p8 := x }
          | .p9 => { c with p9 := x }
          | _ => { c with h2 := x })) ∧
    CalRow.h1.load c l b0 b1 = { c with h1 := b0 } ∧
    CalRow.h3.load c l b0 b1 = { c with h3 := b0 } ∧
    CalRow.h6.load c l b0 b1 = { c with h6 := b0 } ∧
    (b0.toInt = if 128 ≤ b0.toNat then (b0.toNat : Int) - 256 else b0.toNat) ∧
    (∃ x : BitVec 16, CalRow.h4.load c l b0 b1 = { c with h4 := x } ∧
      x.toInt = l.e4.toInt * 16 + (b0.toNat % 16 : Nat) ∧ -2048 ≤ x.toInt ∧ x.toInt ≤ 2047) ∧
    (∃ x : BitVec 16, CalRow.h5.load c l b0 b1 = { c with h5 := x } ∧
      x.toInt = b0.toInt * 16 + (l.e5b.toNat / 16 : Nat) ∧ -2048 ≤ x.toInt ∧ x.toInt ≤ 2047)

/-! ### Arithmetic (spec/00_scope.md R10, spec/42_compensation.md) -/

/-- R10: every operator computes on the integers its operands denote and wraps into the signed N-bit range;
right shift is the floor, division truncates toward zero. -/
def Obligations.OperatorsWrap : Prop :=
  ∀ (n : Nat) (a b : BitVec n) (k : Nat), 0 < n → k < n →
    (a + b).toInt = Exact.add n a.toInt b.toInt ∧
    (a - b).toInt = Exact.sub n a.toInt b.toInt ∧
    (a * b).toInt = Exact.mul n a.toInt b.toInt ∧
    (shl a k).toInt = Exact.shl n a.toInt k ∧
    (asr a k).toInt = Exact.asr a.toInt k ∧
    (b ≠ 0 → (divTrunc a b).toInt = Exact.div n a.toInt b.toInt)

/-- R201, R204: COMP_T is R201's formula over the integers at width 32, and set A's example holds. -/
def Obligations.TemperatureFormula : Prop :=
  (∀ (c : Cal) (adcT : S32),
    (compT c adcT).2.toInt = Exact.fine c adcT.toInt ∧
    (compT c adcT).1.toInt = Exact.centi (Exact.fine c adcT.toInt)) ∧
  compT Cal.setA 519888#32 = (2508#32, 128422#32)

/-- R202, R204: COMP_P is R202's formula over the integers at width 64; a zero divisor gives 0 with `div0 = 1`
(R205), and only a zero divisor does; and set A's example holds. -/
def Obligations.PressureFormula : Prop :=
  (∀ (c : Cal) (adcP tf : S32),
    (Exact.divisor c tf.toInt = 0 → compP c adcP tf = (0#32, true)) ∧
    (Exact.divisor c tf.toInt ≠ 0 →
      ((compP c adcP tf).1.toNat : Int) = Exact.u32 (Exact.quotient c adcP.toInt tf.toInt) ∧
      (compP c adcP tf).2 = false)) ∧
  compP Cal.setA 415148#32 128422#32 = (25767233#32, false)

/-- R203, R204: COMP_H is R203's formula over the integers at width 32 with R206's clamp, its result is in
0..102400, and set A's example holds. -/
def Obligations.HumidityFormula : Prop :=
  (∀ (c : Cal) (adcH tf : S32),
    ((compH c adcH tf).toNat : Int) = Exact.humidity c adcH.toInt tf.toInt ∧
    (compH c adcH tf).toNat ≤ 102400 ∧
    (Exact.preClamp c adcH.toInt tf.toInt < 0 → compH c adcH tf = 0#32) ∧
    (419430400 < Exact.preClamp c adcH.toInt tf.toInt → compH c adcH tf = 102400#32)) ∧
  humidityPreClamp Cal.setA 30000#32 128422#32 = 230678058#32 ∧ compH Cal.setA 30000#32 128422#32 = 56317#32

/-! ### Events, errors and their order (spec/60_exceptions.md) -/

/-- R6, R21, R279: one statement of a command adds at most one bus or delay event and at most one response; a
response is the last event, is what RESP then holds, and leaves the block idle; an error's flags are 0. What lines
share a statement is the model's reading (log 1, log 3). -/
def Obligations.ExecEmitsOneEvent : Prop :=
  ∀ (i : Instr) (s t : State), exec i s = .next t →
    ∃ es, t.events = s.events ++ es ∧ es.countP isPortEvent ≤ 1 ∧ es.countP isAccept = 0 ∧
      (es.countP isResponse = 0 ∨
        ∃ r, es.countP isResponse = 1 ∧ es.getLast? = some (.response r) ∧ t.resp = r ∧ t.respValid = true ∧
          t.seq = .idle ∧ t.busy = false ∧ (r.status ≠ 0#4 → r.flags = 0#3))

/-- R291: a port that does not answer leaves the block waiting in that statement, with nothing changed. The queues
are the model's choice (log 4). -/
def Obligations.SilentPortsHoldTheBlock : Prop :=
  ∀ (i : Instr) (s : State), seqFits i s.seq = true →
    (s.seq.awaitsBus = true → BusItem.silent s.busQueue = true → exec i s = .next s) ∧
    (s.seq.awaitsDelay = true → s.delayDone = 0 → exec i s = .next s)

/-- R275: CONFIGURE and the readouts are refused with NOT_INITIALIZED while LIFE is not READY, with no port event,
and nothing changes but the response, SEQ and BUSY. That the answer is in the step of the check is the model's
reading (log 2), and that CMD keeps its word there its choice (log 30). -/
def Obligations.NotInitializedRefusal : Prop :=
  ∀ (i : Instr) (s : State), i ≠ .init → s.seq = .idle → s.life ≠ .ready →
    exec i s = .next { s with
      resp := { status := 5#4, value := 0#32, flags := 0#3 }, respValid := true, seq := .idle, busy := false,
      events := s.events ++ [.response { status := 5#4, value := 0#32, flags := 0#3 }] }

/-- R140, R141, R276: INIT is executed from UNINIT and FAILED, clearing the validity bits and TFINE_SENT as R140's
first line writes; that TFINE_SENT is cleared is R140's line over R37's table (log 10). From READY it is refused
with ALREADY_INITIALIZED, with no port event, and nothing changes but the response, SEQ and BUSY. That the answer
is in the step of the check is the model's reading (log 2), and that CMD keeps its word there its choice
(log 30). -/
def Obligations.InitRunsUnlessReady : Prop :=
  ∀ s : State, s.seq = .idle →
    (s.life ≠ .ready → exec .init s = .next { s with
      calValid := false, tfineValid := false, tfineSent := false, cfgValid := false, seq := .init .checkId }) ∧
    (s.life = .ready → exec .init s = .next { s with
      resp := { status := 6#4, value := 0#32, flags := 0#3 }, respValid := true, seq := .idle, busy := false,
      events := s.events ++ [.response { status := 6#4, value := 0#32, flags := 0#3 }] })

/-- R245, R277: with F = 0 a pressure or humidity readout uses TFINE only when it is valid, and otherwise is
refused with STALE_FINE_TEMPERATURE with no port event; with F = 1 it goes to the temperature conversion first.
That the answer is in the step of the check is the model's reading (log 2), and that CMD keeps its word there its
choice (log 30). -/
def Obligations.FreshnessRule : Prop :=
  ∀ s : State, s.seq = .idle → s.life = .ready →
    let stale : State := { s with
      resp := { status := 7#4, value := 0#32, flags := 0#3 }, respValid := true, seq := .idle, busy := false,
      events := s.events ++ [.response { status := 7#4, value := 0#32, flags := 0#3 }] }
    (s.tfineValid = false → exec (.readP false) s = .next stale ∧ exec (.readH false) s = .next stale) ∧
    (s.tfineValid = true →
      exec (.readP false) s = .next { s with seq := .readP .press } ∧
      exec (.readH false) s = .next { s with seq := .readH .hum }) ∧
    exec (.readP true) s = .next { s with seq := .readP .temp } ∧
    exec (.readH true) s = .next { s with seq := .readH .temp }

/-- R278, stages 1 to 3: at the acceptance of a word decode is checked first, then the lifecycle, then the
freshness; the first that fails decides the one response, with no port event; and when none fails the command is
under way with no response yet. That acceptance and these checks are one step is the model's reading (log 2), and
that CMD keeps the word at an answer its choice (log 30). -/
def Obligations.StagesInOrder : Prop :=
  ∀ (s : State) (w : Word) (rest : List Word),
    s.busy = false → s.resetReq = false → (∀ m q, s.busQueue ≠ .move m :: q) → s.hostQueue = w :: rest →
    ∃ t, step s = .next t ∧ t.hostQueue = rest ∧ t.cmd = w ∧
      let answered (code : BitVec 4) (info : Word) : Prop :=
        t.resp = { status := code, value := info, flags := 0#3 } ∧ t.busy = false ∧ t.seq = .idle ∧
        t.events = s.events ++ [.accept w, .response { status := code, value := info, flags := 0#3 }]
      match decode w with
      | .illegal _ => answered 4#4 w
      | .command i =>
        if i = .init ∧ s.life = .ready then answered 6#4 0#32
        else if i ≠ .init ∧ s.life ≠ .ready then answered 5#4 0#32
        else if (i = .readP false ∨ i = .readH false) ∧ s.tfineValid = false then answered 7#4 0#32
        else t.busy = true ∧ seqFits i t.seq = true ∧ t.resp = s.resp ∧ t.events = s.events ++ [.accept w]

/-! ### INIT (spec/40_lifecycle.md) -/

/-- R142: one read of 1 byte at REG_ID, compared whole with 0x60; a mismatch is WrongDevice with the byte read, and
the failure effects of R148. The mismatch clause has R148's effects and R270's code; that the response is in the
step of the read is the model's reading (log 3), and that CMD keeps its word there its choice (log 30). -/
def Obligations.InitChecksChipId : Prop :=
  ∀ (s : State) (a : BusAnswer) (rest : List BusItem) (id x y : Byte),
    s.seq = .init .checkId → s.busQueue = .answer a :: rest → a.bytes s.dev 0xD0#8 = some (id, x, y) →
    (id = 0x60#8 → exec .init s = .next { s with
      busQueue := rest, seq := .init .reset, events := s.events ++ [.read 0xD0#8 1 (some [id])] }) ∧
    (id ≠ 0x60#8 → exec .init s = .next { s with
      busQueue := rest, life := .failed, failCode := 1#4, calValid := false, cfgValid := false,
      tfineValid := false, resp := { status := 1#4, value := id.setWidth 32, flags := 0#3 }, respValid := true,
      seq := .idle, busy := false,
      events := s.events ++ [.read 0xD0#8 1 (some [id]),
        .response { status := 1#4, value := id.setWidth 32, flags := 0#3 }] })

/-- R143: one write of 0xB6 to REG_RESET, then one delay T_RESET_SETTLE with no bus transaction, then the poll
(with POLLS set to 0, R140). That POLLS is set to 0 in the step of the delay's report is the model's reading
(log 1). -/
def Obligations.InitSoftResets : Prop :=
  (∀ (s : State) (a : BusAnswer) (rest : List BusItem) (k : Bool),
    s.seq = .init .reset → s.busQueue = .answer a :: rest → a.takes = some k →
    exec .init s = .next { s with
      busQueue := rest, dev := s.dev.write k 0xE0#8 0xB6#8, seq := .init .resetSettle,
      events := s.events ++ [.write 0xE0#8 0xB6#8 true] }) ∧
  (∀ (s : State) (k : Nat), s.seq = .init .resetSettle → s.delayDone = k + 1 →
    exec .init s = .next { s with
      delayDone := k, polls := 0, seq := .init .poll, events := s.events ++ [.delay .tResetSettle] }) ∧
  (∀ s : State, s.seq = .init .resetSettle → s.delayDone = 0 → exec .init s = .next s)

/-- R144, R272: bit 0 of the status byte decides alone; a busy read counts, ends in CalibrationTimeout at the
limit, and otherwise is followed by one poll delay and another read. The timeout has R148's effects; that its
response is in the step of the read is the model's reading (log 3), and that CMD keeps its word there its choice
(log 30). -/
def Obligations.InitPollsBusyBit : Prop :=
  (∀ (s : State) (a : BusAnswer) (rest : List BusItem) (st x y : Byte),
    s.seq = .init .poll → s.busQueue = .answer a :: rest → a.bytes s.dev 0xF3#8 = some (st, x, y) →
    (st.getLsbD 0 = false → exec .init s = .next { s with
      busQueue := rest, seq := .init (.loadCal .t1), events := s.events ++ [.read 0xF3#8 1 (some [st])] }) ∧
    (st.getLsbD 0 = true → s.polls + 1 ≠ s.calPollLimit → exec .init s = .next { s with
      busQueue := rest, polls := s.polls + 1, seq := .init .pollWait,
      events := s.events ++ [.read 0xF3#8 1 (some [st])] }) ∧
    (st.getLsbD 0 = true → s.polls + 1 = s.calPollLimit → exec .init s = .next { s with
      busQueue := rest, polls := s.polls + 1, life := .failed, failCode := 2#4, calValid := false,
      cfgValid := false, tfineValid := false,
      resp := { status := 2#4, value := BitVec.ofNat 32 s.calPollLimit, flags := 0#3 }, respValid := true,
      seq := .idle, busy := false,
      events := s.events ++ [.read 0xF3#8 1 (some [st]),
        .response { status := 2#4, value := BitVec.ofNat 32 s.calPollLimit, flags := 0#3 }] })) ∧
  (∀ (s : State) (k : Nat), s.seq = .init .pollWait → s.delayDone = k + 1 →
    exec .init s = .next { s with
      delayDone := k, seq := .init .poll, events := s.events ++ [.delay .tPollInterval] })

/-- R144: a device that stays busy gets exactly CAL_POLL_LIMIT status reads and CAL_POLL_LIMIT - 1 poll delays, and
INIT then ends in CALIBRATION_TIMEOUT with the limit as info. The number of statements is the model's reading
(log 1, log 3). -/
def Obligations.PollTimesOutAtLimit : Prop :=
  ∀ (s : State) (n : Nat) (sts : List Byte) (rest : List BusItem) (d : Nat),
    s.seq = .init .poll → s.polls = 0 → s.calPollLimit = n + 1 →
    sts.length = n + 1 → (∀ b ∈ sts, b.getLsbD 0 = true) →
    s.busQueue = sts.map drawn ++ rest → s.delayDone = n + d →
    ∃ t, execTimes .init (2 * n + 1) s = .next t ∧ t.life = .failed ∧ t.failCode = 2#4 ∧ t.polls = n + 1 ∧
      t.resp = { status := 2#4, value := BitVec.ofNat 32 (n + 1), flags := 0#3 } ∧ t.seq = .idle ∧
      t.busQueue = rest ∧ t.delayDone = d ∧
      ∃ es, t.events = s.events ++ es ∧
        es.countP (fun e => match e with
          | .read a _ _ => a == 0xF3#8
          | _ => false) = n + 1 ∧
        es.countP (fun e => e == .delay .tPollInterval) = n

/-- R145: twenty acknowledged reads load the store, in the table's order and with its sizes, and then CAL_VALID is
set and the default configuration follows. That each read and what it loads is one statement is the model's reading
(log 1). -/
def Obligations.InitLoadsCalibration : Prop :=
  ∀ (s : State) (ans : CalRow → BusAnswer) (f : CalRow → Byte × Byte × Byte) (rest : List BusItem),
    s.seq = .init (.loadCal .t1) →
    (∀ x ∈ calTable, (ans x.1).bytes s.dev x.2.1 = some (f x.1)) →
    s.busQueue = calTable.map (fun x => .answer (ans x.1)) ++ rest →
    ∃ t, execTimes .init 20 s = .next t ∧ t.cal = calOf f ∧ t.calValid = true ∧
      t.events = s.events ++ calReads f ∧ t.seq = .init (.applyDefault .ctrlHum) ∧ t.busQueue = rest ∧
      t.dev = s.dev ∧ t.life = s.life ∧ t.tfine = s.tfine ∧ t.polls = s.polls

/-- R146: the three writes 0xF2 <- 0x05, 0xF5 <- 0x00, 0xF4 <- 0xB7 in that order, and the shadow then holds
NORMAL, X16, X16, X16, OFF, SB_0P5. -/
def Obligations.InitAppliesDefault : Prop :=
  ∀ (s : State) (a1 a2 a3 : BusAnswer) (k1 k2 k3 : Bool) (rest : List BusItem),
    s.seq = .init (.applyDefault .ctrlHum) → s.busQueue = .answer a1 :: .answer a2 :: .answer a3 :: rest →
    a1.takes = some k1 → a2.takes = some k2 → a3.takes = some k3 →
    ∃ t1 t2, exec .init s = .next t1 ∧ exec .init t1 = .next t2 ∧
      exec .init t2 = .next { s with
        busQueue := rest,
        dev := ((s.dev.write k1 0xF2#8 0x05#8).write k2 0xF5#8 0x00#8).write k3 0xF4#8 0xB7#8,
        cfg := { mode := Mode.normal, osrsT := Osrs.x16, osrsP := Osrs.x16, osrsH := Osrs.x16,
                 filter := Iir.off, tSb := Standby.sb0p5 },
        cfgValid := true, seq := .init .finalSettle,
        events := s.events ++ [.write 0xF2#8 0x05#8 true, .write 0xF5#8 0x00#8 true, .write 0xF4#8 0xB7#8 true] }

/-- R147: one delay T_INIT_SETTLE, then LIFE READY, FAIL_CODE 0 and the response (OK, 0, 0). That the response is
the step after the delay is the model's reading (log 1). That CMD keeps its word at the response is the model's
choice (log 30). -/
def Obligations.InitSettlesAndResponds : Prop :=
  ∀ (s : State) (k : Nat), s.seq = .init .finalSettle → s.delayDone = k + 1 →
    ∃ t, exec .init s = .next t ∧ t.life = .ready ∧ t.failCode = 0#4 ∧
      exec .init t = .next { s with
        delayDone := k, life := .ready, failCode := 0#4,
        resp := { status := 0#4, value := 0#32, flags := 0#3 }, respValid := true, seq := .idle, busy := false,
        events := s.events ++ [.delay .tInitSettle, .response { status := 0#4, value := 0#32, flags := 0#3 }] }

/-- R148, R273: whatever error ends an accepted INIT, LIFE becomes FAILED, FAIL_CODE the error's code, and
CAL_VALID, CFG_VALID and TFINE_VALID 0, with the flags 0; a NACK at any transaction is such an error, with
TransportError and the transaction's address, and is the last event before the response. That the device does not
take a write answered NACK is the model's choice (log 15). That the response is in the step of the failure is the
model's reading (log 3), and that CMD keeps its word there its choice (log 30). -/
def Obligations.InitErrorsFail : Prop :=
  (∀ (s t : State) (p : InitPos), s.seq = .init p → exec .init s = .next t → t.seq = .idle →
    t.resp.status ≠ 0#4 →
    t.life = .failed ∧ t.failCode = t.resp.status ∧ t.calValid = false ∧ t.cfgValid = false ∧
    t.tfineValid = false ∧ t.resp.flags = 0#3 ∧ t.busy = false ∧ t.cal = s.cal) ∧
  (∀ (s : State) (p : InitPos) (rest : List BusItem) (addr : Byte) (e : Event),
    s.seq = .init p → initRequest p = some (addr, e) → s.busQueue = .answer .nack :: rest →
    exec .init s = .next { s with
      busQueue := rest, life := .failed, failCode := 3#4, calValid := false, cfgValid := false,
      tfineValid := false, resp := { status := 3#4, value := addr.setWidth 32, flags := 0#3 },
      respValid := true, seq := .idle, busy := false,
      events := s.events ++ [e, .response { status := 3#4, value := addr.setWidth 32, flags := 0#3 }] })

/-- R149: an INIT sub-state waits, or moves along the table, or ends FAILED with an error response, or (from its
response position, log 1) ends READY or whatever LIFE is with OK. There is no other transition. That an error's
response is in the step of the failure is the model's reading (log 3). -/
def Obligations.InitTransitions : Prop :=
  ∀ (s t : State) (p : InitPos), s.seq = .init p → exec .init s = .next t →
    t = s ∨
    (∃ q, initEdge p q ∧ t.seq = .init q ∧ t.busy = s.busy ∧
      t.life = (if q = .respond then .ready else s.life)) ∨
    (t.seq = .idle ∧ t.life = .failed ∧ t.resp.status ≠ 0#4 ∧ p ≠ .respond) ∨
    (t.seq = .idle ∧ t.life = s.life ∧ t.resp = { status := 0#4, value := 0#32, flags := 0#3 } ∧ p = .respond)

/-- R140: with the chip ID right, fewer busy status reads than the limit, every transaction acknowledged (here
with drawn bytes, of which the calibration's are any) and every delay reported done, INIT runs to READY. The
number of statements rests on the model's reading of a step (log 1, log 2), and TFINE_SENT 0 on R140's line over
R37's table (log 10). -/
def Obligations.InitRunsToReady : Prop :=
  ∀ (s : State) (busy : List Byte) (st : Byte) (f : CalRow → Byte × Byte × Byte) (rest : List BusItem) (d : Nat),
    s.seq = .idle → s.life ≠ .ready →
    busy.length < s.calPollLimit → (∀ b ∈ busy, b.getLsbD 0 = true) → st.getLsbD 0 = false →
    s.busQueue = initAnswers busy st f rest →
    s.delayDone = busy.length + 2 + d →
    ∃ t, execTimes .init (2 * busy.length + 30) s = .next t ∧
      t.life = .ready ∧ t.failCode = 0#4 ∧ t.cal = calOf f ∧ t.calValid = true ∧
      t.cfg = Config.defaultConfig ∧ t.cfgValid = true ∧ t.tfineValid = false ∧ t.tfineSent = false ∧
      t.polls = busy.length ∧ t.resp = { status := 0#4, value := 0#32, flags := 0#3 } ∧ t.respValid = true ∧
      t.seq = .idle ∧ t.busy = false ∧ t.busQueue = rest ∧ t.delayDone = d ∧
      t.events = s.events ++ initEvents busy st f

/-- R150: from the step LIFE becomes READY until block reset, every coefficient holds one value. -/
def Obligations.CalibrationImmutable : Prop :=
  ∀ s t : State, s.Inv → s.life = .ready → s.resetReq = false → step s = .next t →
    t.cal = s.cal ∧ t.calValid = true ∧ t.life = .ready

/-! ### CONFIGURE (spec/41_configuration.md) -/

/-- R181, R183, R187: a READY instance writes humidity control, configuration, measurement control, in that order
and with R187's bytes; then the shadow holds the operands, and the response is (OK, 0, 0). That the response is the
step after the last write is the model's reading (log 1), that CMD keeps its word there its choice (log 30), and so
is that a term with reserved operand codes, which no word decodes to, runs (log 27). -/
def Obligations.ConfigureWritesInOrder : Prop :=
  ∀ (s : State) (md : BitVec 2) (ot opr oh flt sb : BitVec 3) (a1 a2 a3 : BusAnswer) (k1 k2 k3 : Bool)
    (rest : List BusItem),
    s.seq = .idle → s.life = .ready → s.busQueue = .answer a1 :: .answer a2 :: .answer a3 :: rest →
    a1.takes = some k1 → a2.takes = some k2 → a3.takes = some k3 →
    let i : Instr := .configure md ot opr oh flt sb
    let v1 : Byte := oh.setWidth 8
    let v2 : Byte := (sb.setWidth 8 <<< 5) ||| (flt.setWidth 8 <<< 2)
    let v3 : Byte := (ot.setWidth 8 <<< 5) ||| (opr.setWidth 8 <<< 2) ||| md.setWidth 8
    ∃ t1 t2 t3 t4, exec i s = .next t1 ∧ t1.tfineValid = false ∧ t1.cfgValid = false ∧ t1.events = s.events ∧
      exec i t1 = .next t2 ∧ exec i t2 = .next t3 ∧ t3.cfgValid = false ∧ t3.cfg = s.cfg ∧
      exec i t3 = .next t4 ∧ t4.cfgValid = true ∧
      exec i t4 = .next { s with
        busQueue := rest, dev := ((s.dev.write k1 0xF2#8 v1).write k2 0xF5#8 v2).write k3 0xF4#8 v3,
        tfineValid := false, cfgValid := true,
        cfg := { mode := md, osrsT := ot, osrsP := opr, osrsH := oh, filter := flt, tSb := sb },
        resp := { status := 0#4, value := 0#32, flags := 0#3 }, respValid := true, seq := .idle, busy := false,
        events := s.events ++ [.write 0xF2#8 v1 true, .write 0xF5#8 v2 true, .write 0xF4#8 v3 true,
          .response { status := 0#4, value := 0#32, flags := 0#3 }] }

/-- R186: a write answered NACK ends CONFIGURE with TransportError and that write's address; the device, CFG,
CFG_VALID and LIFE stay, and no later write is issued. That the response is in the step of the NACK is the model's
reading (log 3); that the device does not take a write answered NACK (log 15), that CMD keeps its word (log 30) and
that a term with reserved operand codes runs (log 27) are its choices. -/
def Obligations.ConfigureNackStops : Prop :=
  ∀ (s : State) (md : BitVec 2) (ot opr oh flt sb : BitVec 3) (w : CfgWrite) (rest : List BusItem),
    s.seq = .configure (.write w) → s.busQueue = .answer .nack :: rest →
    let addr : Byte := match w with
      | .ctrlHum => 0xF2#8
      | .config => 0xF5#8
      | .ctrlMeas => 0xF4#8
    let c : SamplingConfig := { mode := md, osrsT := ot, osrsP := opr, osrsH := oh, filter := flt, tSb := sb }
    exec (.configure md ot opr oh flt sb) s = .next { s with
      busQueue := rest, resp := { status := 3#4, value := addr.setWidth 32, flags := 0#3 }, respValid := true,
      seq := .idle, busy := false,
      events := s.events ++ [.write addr (w.image c) false,
        .response { status := 3#4, value := addr.setWidth 32, flags := 0#3 }] }

/-- R184: two CONFIGUREs with the same operands, from any two READY states and acknowledged throughout, emit the
same events and leave the same registers. The number of statements is the model's reading (log 1), and that a term
with reserved operand codes runs its choice (log 27). -/
def Obligations.ConfigureIdempotent : Prop :=
  ∀ (s u : State) (md : BitVec 2) (ot opr oh flt sb : BitVec 3) (a1 a2 a3 b1 b2 b3 : BusAnswer)
    (q r : List BusItem),
    s.seq = .idle → u.seq = .idle → s.life = .ready → u.life = .ready →
    s.busQueue = .answer a1 :: .answer a2 :: .answer a3 :: q →
    u.busQueue = .answer b1 :: .answer b2 :: .answer b3 :: r →
    (∀ a ∈ [a1, a2, a3, b1, b2, b3], a ≠ .nack) →
    ∃ s' u' es, execTimes (.configure md ot opr oh flt sb) 5 s = .next s' ∧
      execTimes (.configure md ot opr oh flt sb) 5 u = .next u' ∧
      s'.events = s.events ++ es ∧ u'.events = u.events ++ es ∧ es.countP isPortEvent = 3 ∧
      s'.cfg = u'.cfg ∧ s'.cfgValid = u'.cfgValid ∧ s'.tfineValid = u'.tfineValid ∧ s'.resp = u'.resp ∧
      s'.life = u'.life ∧ s'.seq = u'.seq ∧ s'.busy = u'.busy

/-- R37, column CONFIGURE, and for the device's bytes R65 to R68: what a statement of CONFIGURE leaves unchanged.
The bytes it stores to are those of the write it stands at; a measurement-control write also stores to the status
byte, for its bit 3 (log 20, log 32), and to the data registers of the channels that are Skip afterwards (log 18).
That CMD keeps its word at the answering step is the model's choice (log 30). The locals are the model's own
(log 8), and that a term with reserved operand codes runs is its choice (log 27). -/
def Obligations.ConfigureFrame : Prop :=
  ∀ (s t : State) (md : BitVec 2) (ot opr oh flt sb : BitVec 3),
    exec (.configure md ot opr oh flt sb) s = .next t →
    sameLifecycle s t ∧ sameOutside s t ∧ t.tfine = s.tfine ∧ t.tfineSent = s.tfineSent ∧ t.tmp = s.tmp ∧
    t.delayDone = s.delayDone ∧
    (s.seq ≠ .configure (.write .ctrlMeas) → t.cfg = s.cfg ∧ (s.seq ≠ .idle → t.cfgValid = s.cfgValid)) ∧
    (s.seq ≠ .idle → t.tfineValid = s.tfineValid) ∧
    (t.seq ≠ .idle → t.resp = s.resp ∧ t.respValid = s.respValid ∧ t.busy = s.busy) ∧
    (s.seq = .configure (.write .ctrlHum) → sameBytesBut [0xF2] s.dev t.dev ∧ t.dev.oshEff = s.dev.oshEff) ∧
    (s.seq = .configure (.write .config) → sameBytesBut [0xF5] s.dev t.dev ∧ t.dev.oshEff = s.dev.oshEff) ∧
    (s.seq = .configure (.write .ctrlMeas) → ctrlMeasStores s.dev t.dev) ∧
    ((∀ w, s.seq ≠ .configure (.write w)) → t.dev = s.dev)

/-! ### The readouts (spec/43_readout.md) -/

/-- R241, R244: READ_T on a READY instance reads three bytes at 0xFA, makes TFINE and its two bits, and responds OK
with the temperature and the flags of R117; the response is the step after the read (log 1). The locals are the
model's own (log 8), and that CMD keeps its word at the response is the model's choice (log 30). -/
def Obligations.ReadTResult : Prop :=
  ∀ (s : State) (a : BusAnswer) (rest : List BusItem) (b0 b1 b2 : Byte),
    s.seq = .idle → s.life = .ready → s.calValid = true → s.busQueue = .answer a :: rest →
    a.bytes s.dev 0xFA#8 = some (b0, b1, b2) →
    let code : BitVec 24 := b0 ++ b1 ++ b2
    let r := compT s.cal (adc20 code)
    let sent : Bool := decide (code = 0x800000#24)
    let flags : BitVec 3 := if sent then 0b011#3 else 0b000#3
    ∃ t1 t2, exec .readT s = .next t1 ∧ t1.events = s.events ∧ exec .readT t1 = .next t2 ∧
      exec .readT t2 = .next { s with
        busQueue := rest, tfine := r.2, tfineValid := true, tfineSent := sent,
        tmp := { s.tmp with value := r.1, flags := flags },
        resp := { status := 0#4, value := r.1, flags := flags }, respValid := true, seq := .idle, busy := false,
        events := s.events ++ [.read 0xFA#8 3 (some [b0, b1, b2]),
          .response { status := 0#4, value := r.1, flags := flags }] }

/-- R242, R246: READ_P on a READY instance. With F = 0 and a valid TFINE it reads three bytes at 0xF7 and responds
OK with the pressure from that TFINE; with F = 1 it first makes TFINE from a read at 0xFA. Flags: CH_SENT,
TFINE_SENT, DIV0. The response is the step after the read (log 1); the locals are the model's own (log 8), and that
CMD keeps its word at the response is the model's choice (log 30). -/
def Obligations.ReadPResult : Prop :=
  (∀ (s : State) (a : BusAnswer) (rest : List BusItem) (b0 b1 b2 : Byte),
    s.seq = .idle → s.life = .ready → s.calValid = true → s.tfineValid = true →
    s.busQueue = .answer a :: rest → a.bytes s.dev 0xF7#8 = some (b0, b1, b2) →
    let code : BitVec 24 := b0 ++ b1 ++ b2
    let r := compP s.cal (adc20 code) s.tfine
    let flags : BitVec 3 := BitVec.ofBool r.2 ++ BitVec.ofBool s.tfineSent ++ BitVec.ofBool (decide (code = 0x800000#24))
    ∃ t1 t2, exec (.readP false) s = .next t1 ∧ exec (.readP false) t1 = .next t2 ∧
      exec (.readP false) t2 = .next { s with
        busQueue := rest, tmp := { s.tmp with value := r.1, flags := flags },
        resp := { status := 0#4, value := r.1, flags := flags }, respValid := true, seq := .idle, busy := false,
        events := s.events ++ [.read 0xF7#8 3 (some [b0, b1, b2]),
          .response { status := 0#4, value := r.1, flags := flags }] }) ∧
  (∀ (s : State) (a a' : BusAnswer) (rest : List BusItem) (b0 b1 b2 c0 c1 c2 : Byte),
    s.seq = .idle → s.life = .ready → s.calValid = true →
    s.busQueue = .answer a :: .answer a' :: rest → a.bytes s.dev 0xFA#8 = some (c0, c1, c2) →
    a'.bytes s.dev 0xF7#8 = some (b0, b1, b2) →
    let codeT : BitVec 24 := c0 ++ c1 ++ c2
    let sentT : Bool := decide (codeT = 0x800000#24)
    let tf := (compT s.cal (adc20 codeT)).2
    let code : BitVec 24 := b0 ++ b1 ++ b2
    let r := compP s.cal (adc20 code) tf
    let flags : BitVec 3 := BitVec.ofBool r.2 ++ BitVec.ofBool sentT ++ BitVec.ofBool (decide (code = 0x800000#24))
    ∃ t1 t2 t3, exec (.readP true) s = .next t1 ∧ exec (.readP true) t1 = .next t2 ∧
      exec (.readP true) t2 = .next t3 ∧
      exec (.readP true) t3 = .next { s with
        busQueue := rest, tfine := tf, tfineValid := true, tfineSent := sentT,
        tmp := { s.tmp with value := r.1, flags := flags },
        resp := { status := 0#4, value := r.1, flags := flags }, respValid := true, seq := .idle, busy := false,
        events := s.events ++ [.read 0xFA#8 3 (some [c0, c1, c2]), .read 0xF7#8 3 (some [b0, b1, b2]),
          .response { status := 0#4, value := r.1, flags := flags }] })

/-- R243, R246: READ_H, as READ_P with two bytes at 0xFD, the humidity code not shifted, and no DIV0. The response
is the step after the read (log 1); the locals are the model's own (log 8), and that CMD keeps its word at the
response is the model's choice (log 30). -/
def Obligations.ReadHResult : Prop :=
  (∀ (s : State) (a : BusAnswer) (rest : List BusItem) (b0 b1 x : Byte),
    s.seq = .idle → s.life = .ready → s.calValid = true → s.tfineValid = true →
    s.busQueue = .answer a :: rest → a.bytes s.dev 0xFD#8 = some (b0, b1, x) →
    let code : BitVec 16 := b0 ++ b1
    let h := compH s.cal (adc16 code) s.tfine
    let flags : BitVec 3 := 0#1 ++ BitVec.ofBool s.tfineSent ++ BitVec.ofBool (decide (code = 0x8000#16))
    ∃ t1 t2, exec (.readH false) s = .next t1 ∧ exec (.readH false) t1 = .next t2 ∧
      exec (.readH false) t2 = .next { s with
        busQueue := rest, tmp := { s.tmp with value := h, flags := flags },
        resp := { status := 0#4, value := h, flags := flags }, respValid := true, seq := .idle, busy := false,
        events := s.events ++ [.read 0xFD#8 2 (some [b0, b1]),
          .response { status := 0#4, value := h, flags := flags }] }) ∧
  (∀ (s : State) (a a' : BusAnswer) (rest : List BusItem) (b0 b1 x c0 c1 c2 : Byte),
    s.seq = .idle → s.life = .ready → s.calValid = true →
    s.busQueue = .answer a :: .answer a' :: rest → a.bytes s.dev 0xFA#8 = some (c0, c1, c2) →
    a'.bytes s.dev 0xFD#8 = some (b0, b1, x) →
    let codeT : BitVec 24 := c0 ++ c1 ++ c2
    let sentT : Bool := decide (codeT = 0x800000#24)
    let tf := (compT s.cal (adc20 codeT)).2
    let code : BitVec 16 := b0 ++ b1
    let h := compH s.cal (adc16 code) tf
    let flags : BitVec 3 := 0#1 ++ BitVec.ofBool sentT ++ BitVec.ofBool (decide (code = 0x8000#16))
    ∃ t1 t2 t3, exec (.readH true) s = .next t1 ∧ exec (.readH true) t1 = .next t2 ∧
      exec (.readH true) t2 = .next t3 ∧
      exec (.readH true) t3 = .next { s with
        busQueue := rest, tfine := tf, tfineValid := true, tfineSent := sentT,
        tmp := { s.tmp with value := h, flags := flags },
        resp := { status := 0#4, value := h, flags := flags }, respValid := true, seq := .idle, busy := false,
        events := s.events ++ [.read 0xFA#8 3 (some [c0, c1, c2]), .read 0xFD#8 2 (some [b0, b1]),
          .response { status := 0#4, value := h, flags := flags }] })

/-- R248: a NACK on the temperature read makes TFINE invalid and ends the command with TransportError(0xFA), TFINE
keeping its contents; a NACK on the pressure or humidity read leaves all three fine-temperature registers as they
were. R273 and R279 give the answer; that it is in the step of the NACK is the model's reading (log 3), and that
CMD keeps its word there its choice (log 30). -/
def Obligations.FailedReadsAndFineTemperature : Prop :=
  ∀ (s : State) (rest : List BusItem), s.busQueue = .answer .nack :: rest →
    let failed (addr : Byte) (n : Nat) (valid : Bool) : State := { s with
      busQueue := rest, tfineValid := valid,
      resp := { status := 3#4, value := addr.setWidth 32, flags := 0#3 }, respValid := true, seq := .idle,
      busy := false,
      events := s.events ++ [.read addr n none,
        .response { status := 3#4, value := addr.setWidth 32, flags := 0#3 }] }
    (s.seq = .readT .temp → exec .readT s = .next (failed 0xFA#8 3 false)) ∧
    (s.seq = .readP .temp → ∀ f, exec (.readP f) s = .next (failed 0xFA#8 3 false)) ∧
    (s.seq = .readH .temp → ∀ f, exec (.readH f) s = .next (failed 0xFA#8 3 false)) ∧
    (s.seq = .readP .press → ∀ f, exec (.readP f) s = .next (failed 0xF7#8 3 s.tfineValid)) ∧
    (s.seq = .readH .hum → ∀ f, exec (.readH f) s = .next (failed 0xFD#8 2 s.tfineValid))

/-- R249: no rule but RefreshT writes TFINE, so between a temperature conversion and the next every readout
passes the same value; only a block reset also writes it. -/
def Obligations.SameFineTemperature : Prop :=
  ∀ s t : State, s.resetReq = false → step s = .next t →
    t.tfine ≠ s.tfine → s.busy = true ∧ s.seq.convertsT = true ∧ t.tfineValid = true

/-- R37, columns READ_T, READ_P and READ_H: what a statement of a readout leaves unchanged. It issues reads only,
so the device is as it was (R77, R241 to R243). That CMD keeps its word at the answering step is the model's choice
(log 30). The locals are the model's own (log 8). -/
def Obligations.ReadoutFrame : Prop :=
  ∀ (i : Instr) (s t : State), (i = .readT ∨ (∃ f, i = .readP f) ∨ ∃ f, i = .readH f) → exec i s = .next t →
    sameLifecycle s t ∧ sameShadow s t ∧ sameOutside s t ∧ t.dev = s.dev ∧ t.delayDone = s.delayDone ∧
    t.tmp.e4 = s.tmp.e4 ∧ t.tmp.e5b = s.tmp.e5b ∧ (s.seq.convertsT = false → sameFine s t) ∧
    (t.seq ≠ .idle → t.resp = s.resp ∧ t.respValid = s.respValid ∧ t.busy = s.busy)

/-- R37 and R140, column INIT: what a statement of INIT leaves unchanged. That INIT clears TFINE_SENT at its entry
is R140's word over R37's table (log 10). That the soft reset keeps the calibration registers, which R85 says of
reads after the copy only, holds during the copy by the model's choice (log 31), and it is its choice too that CMD
keeps its word at the answering step (log 30). The default writes change bytes of the device as R65 to R68 say, the
last also the status byte (log 20, log 32) and the data registers of channels that are Skip afterwards (log 18).
The locals are the model's own (log 8). -/
def Obligations.InitFrame : Prop :=
  ∀ s t : State, exec .init s = .next t →
    sameOutside s t ∧ t.tfine = s.tfine ∧ (s.seq ≠ .idle → t.tfineSent = s.tfineSent) ∧
    ((∀ r, s.seq ≠ .init (.loadCal r)) → t.cal = s.cal ∧ t.tmp = s.tmp) ∧
    (s.seq ≠ .init (.applyDefault .ctrlMeas) → t.cfg = s.cfg) ∧
    (s.seq ≠ .init .poll → s.seq ≠ .init .resetSettle → t.polls = s.polls) ∧
    (t.seq ≠ .idle → t.resp = s.resp ∧ t.respValid = s.respValid ∧ t.busy = s.busy) ∧
    (t.seq ≠ .idle → s.seq ≠ .idle →
      (s.seq ≠ .init (.loadCal .h6) → t.calValid = s.calValid ∧ t.tfineValid = s.tfineValid ∧
        (s.seq ≠ .init (.applyDefault .ctrlMeas) → t.cfgValid = s.cfgValid)) ∧
      (s.seq ≠ .init .finalSettle → t.life = s.life ∧ t.failCode = s.failCode)) ∧
    (s.seq = .init .reset → t.dev = s.dev ∨ ((∀ a, a < 0xF2 → Memory.wf s.dev.regs = true →
      Memory.read t.dev.regs a = Memory.read s.dev.regs a))) ∧
    (s.seq = .init (.applyDefault .ctrlHum) → sameBytesBut [0xF2] s.dev t.dev) ∧
    (s.seq = .init (.applyDefault .config) → sameBytesBut [0xF5] s.dev t.dev) ∧
    (s.seq = .init (.applyDefault .ctrlMeas) → ctrlMeasStores s.dev t.dev) ∧
    (s.seq ≠ .init .reset → (∀ w, s.seq ≠ .init (.applyDefault w)) → t.dev = s.dev)

/-! ### The machine's step -/

/-- R289, R21: idle, the step takes the host's word and runs the command it decodes to, with CMD the word and BUSY
1; busy, the step runs the command in CMD; and a word placed by `withFetchWord` is the one the next step runs. That
acceptance and the first statement are one step is the model's reading (log 2), and placing a word its choice
(log 21). -/
def Obligations.StepRunsTheCommand : Prop :=
  (∀ (s : State) (w : Word) (rest : List Word) (i : Instr),
    s.resetReq = false → (∀ m q, s.busQueue ≠ .move m :: q) → s.busy = false → s.hostQueue = w :: rest →
    decode w = .command i →
    step s = exec i { s with
      hostQueue := rest, cmd := w, busy := true, seq := .idle, events := s.events ++ [.accept w] }) ∧
  (∀ (s : State) (i : Instr),
    s.resetReq = false → (∀ m q, s.busQueue ≠ .move m :: q) → s.busy = true → decode s.cmd = .command i →
    step s = exec i s) ∧
  (∀ (s : State) (w : Word) (i : Instr), decode w = .command i →
    ∃ q, step (s.withFetchWord 32 w.toNat) = exec i { s with
      cmd := w, busy := true, seq := .idle, resetReq := false, busQueue := q, events := s.events ++ [.accept w] })

/-- R289: while BUSY the host port takes no word; idle, it takes the next one; and each accepted word has exactly
one response, after which BUSY is 0. The record is the model's choice (log 11), and so is that CMD keeps a word
that is answered in the step that accepts it (log 2, log 30). -/
def Obligations.HostPortHandshake : Prop :=
  (∀ s t : State, s.busy = true → s.resetReq = false → step s = .next t →
    t.hostQueue = s.hostQueue ∧ t.events.countP isAccept = s.events.countP isAccept) ∧
  (∀ (s : State) (w : Word) (rest : List Word),
    s.busy = false → s.resetReq = false → (∀ m q, s.busQueue ≠ .move m :: q) → s.hostQueue = w :: rest →
    ∃ t, step s = .next t ∧ t.hostQueue = rest ∧ t.cmd = w ∧
      t.events.countP isAccept = s.events.countP isAccept + 1) ∧
  (∀ s t : State, s.controlOk = true → s.Answered → step s = .next t → t.Answered)

/-- R300, R301, R33: block reset and the state after reset have the stated reset values, the registers with no
value are unreadable, no port event happens, the device is not touched, and the block then waits for a word. The
record of events starting anew is the model's choice (log 11). When a block reset happens is its choice too
(log 12). -/
def Obligations.BlockResetValues : Prop :=
  let atReset (t : State) : Prop :=
    t.seq = .idle ∧ t.busy = false ∧ t.life = .uninit ∧ t.failCode = 0#4 ∧ t.calValid = false ∧
    t.tfineValid = false ∧ t.tfineSent = false ∧ t.cfgValid = false ∧ t.respValid = false ∧ t.polls = 0 ∧
    readCal t = none ∧ readTFine t = none ∧ t.events = []
  atReset State.reset ∧ step State.reset = .next State.reset ∧
  (∀ s : State, s.resetReq = true → ∃ t, step s = .next t ∧ atReset t ∧ t.dev = s.dev ∧
    t.hostQueue = s.hostQueue ∧ t.busQueue = s.busQueue ∧ t.delayDone = s.delayDone ∧ t.resetReq = false)

/-- The invariants hold after reset. That CAL_POLL_LIMIT is below 2^32 is the model's choice (log 9). -/
def Obligations.ResetMeetsInvariants : Prop :=
  State.reset.Inv ∧ State.reset.Ordered ∧ State.reset.Answered

/-- Every step keeps the invariant: the sequencer belongs to the command, R35's validity relations, the ranges of
H4 and H5, the status codes, the canonical form of the register space. That CAL_POLL_LIMIT is below 2^32 is the
model's choice (log 9). -/
def Obligations.StepKeepsInv : Prop :=
  ∀ s t : State, s.Inv → step s = .next t → t.Inv

/-- R33: reading CAL or TFINE while its validity bit is 0 is the fault UnwrittenRead, at the temperature
conversion of every readout and at the pressure and the humidity conversion, whatever the fresh bit; and no
command of a state that meets the invariant does so: from there the step answers a next state. That the validity
bit says whether the register has a value is the model's reading (log 7). -/
def Obligations.NoRunFaults : Prop :=
  (∀ (s : State) (a : BusAnswer) (rest : List BusItem) (x : Byte × Byte × Byte), s.busQueue = .answer a :: rest →
    (a.bytes s.dev 0xFA#8 = some x → s.calValid = false →
      (s.seq = .readT .temp → exec .readT s = .fault (.unwrittenRead .cal)) ∧
      (s.seq = .readP .temp → ∀ f, exec (.readP f) s = .fault (.unwrittenRead .cal)) ∧
      (s.seq = .readH .temp → ∀ f, exec (.readH f) s = .fault (.unwrittenRead .cal))) ∧
    (a.bytes s.dev 0xF7#8 = some x → s.seq = .readP .press → ∀ f,
      (s.calValid = false → exec (.readP f) s = .fault (.unwrittenRead .cal)) ∧
      (s.calValid = true → s.tfineValid = false → exec (.readP f) s = .fault (.unwrittenRead .tfine))) ∧
    (a.bytes s.dev 0xFD#8 = some x → s.seq = .readH .hum → ∀ f,
      (s.calValid = false → exec (.readH f) s = .fault (.unwrittenRead .cal)) ∧
      (s.calValid = true → s.tfineValid = false → exec (.readH f) s = .fault (.unwrittenRead .tfine)))) ∧
  (∀ s : State, s.Inv → ∃ t, step s = .next t)

/-- R304, R305, R306: on every run the configuration registers are written in the order humidity control,
configuration, measurement control; no transaction follows the reset code before T_RESET_SETTLE is done; and no
calibration register is read before a status read after the reset found bit 0 clear. The record starts anew at a
block reset (log 11). -/
def Obligations.StepKeepsOrder : Prop :=
  ∀ s t : State, s.Inv → s.Ordered → step s = .next t → t.Ordered

/-- R281: only INIT changes LIFE (and block reset); an error in CONFIGURE or a readout leaves it. -/
def Obligations.OnlyInitChangesLife : Prop :=
  (∀ s t : State, s.resetReq = false → step s = .next t → t.life ≠ s.life →
    s.busy = true ∧ ∃ p, s.seq = .init p) ∧
  (∀ (i : Instr) (s t : State), i ≠ .init → exec i s = .next t → t.life = s.life)

/-! ### The reference device (spec/20_memory.md) -/

/-- R82: a written humidity oversampling is pending and not in effect; every other write than one of
REG_CTRL_MEAS or the reset code, and every move of the device, leaves what is pending and what is in effect; and
a write of REG_CTRL_MEAS takes the pending one into effect. So the three writes of a configuration change leave
the oversampling in effect until the third. -/
def Obligations.HumidityLatch : Prop :=
  ∀ d : Device, Memory.wf d.regs = true →
    (∀ k v, (d.write k 0xF2#8 v).oshEff = d.oshEff ∧ Memory.read (d.write k 0xF2#8 v).regs 0xF2 = v) ∧
    (∀ k a v, a ≠ 0xF2#8 → a ≠ 0xF4#8 → (a = 0xE0#8 → v ≠ 0xB6#8) →
      (d.write k a v).oshEff = d.oshEff ∧ Memory.read (d.write k a v).regs 0xF2 = Memory.read d.regs 0xF2) ∧
    (∀ m, (d.move m).oshEff = d.oshEff ∧ Memory.read (d.move m).regs 0xF2 = Memory.read d.regs 0xF2) ∧
    (∀ k v, (d.write k 0xF4#8 v).oshEff = (Memory.read d.regs 0xF2).extractLsb' 0 3) ∧
    (∀ j k l v c m, ((d.write j 0xF2#8 v).write k 0xF5#8 c).oshEff = d.oshEff ∧
      (((d.write j 0xF2#8 v).write k 0xF5#8 c).write l 0xF4#8 m).oshEff = v.extractLsb' 0 3)

/-- R63, R83, R84: only 0xB6 resets the device; a soft reset leaves the control registers 0x00, every channel
reading its sentinel, status bit 0 at 1 (log 16), and the registers below 0xF2 as they were (during the copy too,
the model's choice: log 31). -/
def Obligations.SoftResetOfDevice : Prop :=
  ∀ (d : Device) (k : Bool) (v : Byte), Memory.wf d.regs = true →
    (v ≠ 0xB6#8 → d.write k 0xE0#8 v = d) ∧
    (∀ e, e = d.write k 0xE0#8 0xB6#8 →
      e.read 0xF2#8 = 0x00#8 ∧ e.read 0xF4#8 = 0x00#8 ∧ e.read 0xF5#8 = 0x00#8 ∧
      (e.read 0xF3#8).getLsbD 0 = true ∧ e.oshEff = 0#3 ∧
      e.read 0xF7#8 = 0x80#8 ∧ e.read 0xF8#8 = 0x00#8 ∧ e.read 0xF9#8 = 0x00#8 ∧
      e.read 0xFA#8 = 0x80#8 ∧ e.read 0xFB#8 = 0x00#8 ∧ e.read 0xFC#8 = 0x00#8 ∧
      e.read 0xFD#8 = 0x80#8 ∧ e.read 0xFE#8 = 0x00#8 ∧
      ∀ a : Byte, a.toNat < 0xF2 → e.read a = d.read a)

/-- R85: no step of the machine, the block's or the device's own, changes a calibration byte of the device; that
this holds also while status bit 0 is 1 is the model's choice (log 31). Which moves the device makes of its own is
the model's choice (log 29). -/
def Obligations.CalibrationBytesConstant : Prop :=
  ∀ (s t : State) (a : Byte), isCalibration a = true → step s = .next t →
    t.dev.read a = s.dev.read a

/-- Two register spaces in canonical form that read the same at every address are the same list. -/
def Obligations.CanonicalMemoriesAreEqual : Prop :=
  ∀ m m' : List Host.Cell, Memory.wf m = true → Memory.wf m' = true →
    (∀ a, Memory.read m a = Memory.read m' a) → m = m'

/-- R83, R66: after power-on and after a soft reset the device is in Sleep and no measurement runs; in Sleep no
move of the device starts one, leaves Sleep or changes a byte but the status (which moves the device makes of its
own is the model's choice, log 29); the step that leaves Sleep or starts a measurement is the acknowledged write of
a mode that is not Sleep (that a write answered NACK does not reach the device is the model's choice, log 15); and no
step leaves a measurement running in Sleep (that a write of Sleep stops one at once is log 20). -/
def Obligations.NoMeasurementInSleep : Prop :=
  (Device.powerOn.mode = 0#2 ∧ Device.powerOn.measuring = false) ∧
  (∀ (d : Device) (k : Bool), Memory.wf d.regs = true →
    (d.write k 0xE0#8 0xB6#8).mode = 0#2 ∧ (d.write k 0xE0#8 0xB6#8).measuring = false) ∧
  (∀ (d : Device) (m : DeviceMove), Memory.wf d.regs = true → d.mode = 0#2 →
    (d.move m).measuring = d.measuring ∧ (d.move m).oshEff = d.oshEff ∧ sameBytesBut [0xF3] d (d.move m)) ∧
  (∀ s t : State, Memory.wf s.dev.regs = true → s.dev.mode = 0#2 → s.dev.measuring = false → step s = .next t →
    t.dev.mode ≠ 0#2 ∨ t.dev.measuring = true →
    ∃ v : Byte, v.extractLsb' 0 2 ≠ 0#2 ∧ t.events = s.events ++ [.write 0xF4#8 v true]) ∧
  (∀ s t : State, Memory.wf s.dev.regs = true → (s.dev.mode = 0#2 → s.dev.measuring = false) → step s = .next t →
    t.dev.mode = 0#2 → t.dev.measuring = false)

/-- R87: when a conversion ends, the next burst read of each channel that is not skipped gives the code of that one
conversion; no other move of the device changes a data register (the model's choice, log 29); and the device stands
still inside a read. That the setting at the end decides which channels get a code, also for a channel enabled
while the conversion ran, is the model's choice (log 33), and so is that a read takes the reference device's bytes
(log 13). -/
def Obligations.BurstReadsGiveOneConversion : Prop :=
  (∀ (d : Device) (p t : BitVec 24) (h : BitVec 16) (k : Bool),
    Memory.wf d.regs = true → d.mode ≠ 0#2 → d.measuring = true →
    let e := d.move (.conversionEnds p t h)
    (d.osrsP ≠ 0#3 → ∃ b0 b1 b2, (BusAnswer.device k).bytes e 0xF7#8 = some (b0, b1, b2) ∧ code24 b0 b1 b2 = p) ∧
    (d.osrsT ≠ 0#3 → ∃ b0 b1 b2, (BusAnswer.device k).bytes e 0xFA#8 = some (b0, b1, b2) ∧ code24 b0 b1 b2 = t) ∧
    (d.oshEff ≠ 0#3 → ∃ b0 b1 x, (BusAnswer.device k).bytes e 0xFD#8 = some (b0, b1, x) ∧ code16 b0 b1 = h)) ∧
  (∀ (d : Device) (m : DeviceMove) (a : Nat), isData a = true → (∀ p t h, m ≠ .conversionEnds p t h) →
    Memory.read (d.move m).regs a = Memory.read d.regs a) ∧
  (∀ (s t : State) (addr : Byte) (n : Nat) (b0 b1 b2 : Byte), memRead addr n s = .ack b0 b1 b2 t → t.dev = s.dev)

/-- R68, R309: a channel that is Skip reads its sentinel; the write that makes it Skip, and a soft reset, put the
reset value into its registers; and once it is there every write, every move of the device and every step of the
machine keep it there and have it read, whether the channel is Skip or enabled, but for the end of a conversion of
an enabled channel. That a channel enabled again reads the reset value and not older data is log 18; that a
conversion's data appear at its end only, and which moves the device makes, is log 29. That a conversion gives a
channel that is Skip at its end no code is log 33, and that a write elsewhere has no effect log 17. -/
def Obligations.SkippedChannelsReadTheirSentinel : Prop :=
  ∀ a : Byte, isData a.toNat = true →
    let holds (d : Device) : Prop := Memory.read d.regs a.toNat = resetByte a.toNat ∧ d.read a = resetByte a.toNat
    holds Device.powerOn ∧
    ∀ d : Device, Memory.wf d.regs = true →
      (d.skipped a.toNat = true → d.read a = resetByte a.toNat) ∧
      (∀ k v, (d.write k 0xF4#8 v).skipped a.toNat = true → holds (d.write k 0xF4#8 v)) ∧
      (∀ k, holds (d.write k 0xE0#8 0xB6#8)) ∧
      (Memory.read d.regs a.toNat = resetByte a.toNat →
        holds d ∧
        (∀ k x v, holds (d.write k x v)) ∧
        (∀ m, (∀ p t h, m = .conversionEnds p t h → d.skipped a.toNat = true) → holds (d.move m)) ∧
        (∀ s t : State, s.dev = d → step s = .next t →
          (∀ p t h rest, s.busQueue = .move (.conversionEnds p t h) :: rest → d.skipped a.toNat = true) →
          holds t.dev))
end

