-- ==== Sys2Proof/Laws/Memory.lean ====
section
/-! SUPPORT. The laws of the register space: a read after a write, and every operation of the reference device
keeps the canonical form. -/

namespace Sys2Proof.Machine

/-- A write gives the value written at its own address. -/
theorem memory_read_write_same (m : List Host.Cell) (a : Nat) (v : Byte) (lo : Nat) (h : Memory.wfFrom lo m = true) :
    Memory.read (Memory.write m a v) a = v := by
  induction m generalizing lo with
  | nil => by_cases hv : v = resetByte a <;> simp [Memory.write, Memory.read, hv]
  | cons c rest ih =>
    obtain ⟨k, x⟩ := c
    simp only [Memory.wfFrom, Bool.and_eq_true, decide_eq_true_eq] at h
    obtain ⟨⟨⟨-, -⟩, -⟩, hr⟩ := h
    have unlisted : ∀ (r : List Host.Cell) (l : Nat), Memory.wfFrom l r = true → a < l →
        Memory.read r a = resetByte a := by
      intro r
      induction r with
      | nil => intro _ _ _; rfl
      | cons c r ihr =>
        intro l hl hal
        obtain ⟨j, y⟩ := c
        simp only [Memory.wfFrom, Bool.and_eq_true, decide_eq_true_eq] at hl
        have : j ≠ a := by omega
        simp only [Memory.read, if_neg this]
        exact ihr (j + 1) hl.2 (by omega)
    simp only [Memory.write]
    split
    · next hak =>
      split
      · next hv =>
        have : k ≠ a := by omega
        simp only [Memory.read, if_neg this, unlisted rest (k + 1) hr (by omega), hv]
      · simp [Memory.read]
    · split
      · next hka =>
        subst hka
        split
        · next hv => rw [unlisted rest (a + 1) hr (by omega), hv]
        · simp [Memory.read]
      · next hne =>
        have : k ≠ a := fun hk => hne hk.symm
        simp only [Memory.read, if_neg this]
        exact ih (k + 1) hr

/-- A write leaves every other address alone. -/
theorem memory_read_write_other (m : List Host.Cell) (a b : Nat) (v : Byte) (hab : b ≠ a) :
    Memory.read (Memory.write m a v) b = Memory.read m b := by
  induction m with
  | nil => by_cases hv : v = resetByte a <;> simp [Memory.write, Memory.read, hv, hab.symm]
  | cons c rest ih =>
    obtain ⟨k, x⟩ := c
    simp only [Memory.write]
    split
    · split <;> simp [Memory.read, hab.symm]
    · split
      · next hka =>
        subst hka
        split <;> simp [Memory.read, hab.symm]
      · simp only [Memory.read, ih]

/-- The form from a bound holds from any lower one. -/
theorem memory_wfFrom_mono (m : List Host.Cell) (hi lo : Nat) (hle : lo ≤ hi) (h : Memory.wfFrom hi m = true) :
    Memory.wfFrom lo m = true := by
  cases m with
  | nil => rfl
  | cons c rest =>
    obtain ⟨k, x⟩ := c
    simp only [Memory.wfFrom, Bool.and_eq_true, decide_eq_true_eq] at h ⊢
    exact ⟨⟨⟨by omega, h.1.1.2⟩, h.1.2⟩, h.2⟩

/-- A write keeps the canonical form from any lower bound. -/
theorem memory_write_wfFrom (m : List Host.Cell) (a : Nat) (v : Byte) (lo : Nat) (ha : a < 256) (hlo : lo ≤ a)
    (h : Memory.wfFrom lo m = true) : Memory.wfFrom lo (Memory.write m a v) = true := by
  induction m generalizing lo with
  | nil => by_cases hv : v = resetByte a <;> simp [Memory.write, Memory.wfFrom, hv, ha, hlo]
  | cons c rest ih =>
    obtain ⟨k, x⟩ := c
    simp only [Memory.wfFrom, Bool.and_eq_true, decide_eq_true_eq] at h
    obtain ⟨⟨⟨hk, hk256⟩, hx⟩, hr⟩ := h
    simp only [Memory.write]
    split
    · next hak =>
      split
      · simp [Memory.wfFrom, hk, hk256, hx, hr]
      · next hv =>
        simp only [Memory.wfFrom, Bool.and_eq_true, decide_eq_true_eq]
        exact ⟨⟨⟨hlo, ha⟩, hv⟩, ⟨⟨by omega, hk256⟩, hx⟩, hr⟩
    · split
      · next hka =>
        subst hka
        split
        · exact memory_wfFrom_mono rest (a + 1) lo (by omega) hr
        · next hv => simp [Memory.wfFrom, hlo, ha, hv, hr]
      · next hnlt hne =>
        simp only [Memory.wfFrom, Bool.and_eq_true, decide_eq_true_eq]
        exact ⟨⟨⟨hk, hk256⟩, hx⟩, ih (k + 1) (by omega) hr⟩
/-- A write keeps the canonical form. -/
theorem memory_write_wf (m : List Host.Cell) (a : Nat) (v : Byte) (ha : a < 256) (h : Memory.wf m = true) :
    Memory.wf (Memory.write m a v) = true :=
  memory_write_wfFrom m a v 0 ha (Nat.zero_le a) h

/-- Leaving cells out keeps the canonical form. -/
theorem memory_filter_wfFrom (m : List Host.Cell) (p : Host.Cell → Bool) (lo : Nat) (h : Memory.wfFrom lo m = true) :
    Memory.wfFrom lo (m.filter p) = true := by
  induction m generalizing lo with
  | nil => rfl
  | cons c rest ih =>
    obtain ⟨k, x⟩ := c
    simp only [Memory.wfFrom, Bool.and_eq_true, decide_eq_true_eq] at h
    obtain ⟨⟨⟨hk, hk256⟩, hx⟩, hr⟩ := h
    simp only [List.filter_cons]
    split
    · simp only [Memory.wfFrom, Bool.and_eq_true, decide_eq_true_eq]
      exact ⟨⟨⟨hk, hk256⟩, hx⟩, ih (k + 1) hr⟩
    · exact memory_wfFrom_mono _ (k + 1) lo (by omega) (ih (k + 1) hr)

/-- A soft reset keeps the canonical form (R84). -/
theorem device_softReset_wf (d : Device) (h : Memory.wf d.regs = true) : Memory.wf d.softReset.regs = true :=
  memory_write_wf _ _ _ (by decide) (memory_filter_wfFrom _ _ _ h)

/-- A code of three bytes keeps the canonical form. -/
theorem storeCode24_wf (m : List Host.Cell) (a : Nat) (code : BitVec 24) (ha : a + 2 < 256) (h : Memory.wf m = true) :
    Memory.wf (storeCode24 m a code) = true :=
  memory_write_wf _ _ _ ha (memory_write_wf _ _ _ (by omega) (memory_write_wf _ _ _ (by omega) h))

/-- A code of two bytes keeps the canonical form. -/
theorem storeCode16_wf (m : List Host.Cell) (a : Nat) (code : BitVec 16) (ha : a + 1 < 256) (h : Memory.wf m = true) :
    Memory.wf (storeCode16 m a code) = true :=
  memory_write_wf _ _ _ ha (memory_write_wf _ _ _ (by omega) h)

/-- Storing channels keeps the canonical form. -/
theorem storeChannels_wf (m : List Host.Cell) (p t : Option (BitVec 24)) (hum : Option (BitVec 16))
    (h : Memory.wf m = true) : Memory.wf (storeChannels m p t hum) = true := by
  have hp : Memory.wf (storeChannels m p none none) = true := by
    cases p with
    | none => exact h
    | some code => exact storeCode24_wf m 0xF7 code (by decide) h
  have ht : Memory.wf (storeChannels m p t none) = true := by
    cases t with
    | none => exact hp
    | some code => exact storeCode24_wf (storeChannels m p none none) 0xFA code (by decide) hp
  cases hum with
  | none => exact ht
  | some code => exact storeCode16_wf (storeChannels m p t none) 0xFD code (by decide) ht

/-- A code of three bytes leaves every other address alone. -/
theorem storeCode24_read_other (m : List Host.Cell) (a b : Nat) (code : BitVec 24) (hb : b < a ∨ a + 2 < b) :
    Memory.read (storeCode24 m a code) b = Memory.read m b := by
  unfold storeCode24
  rw [memory_read_write_other _ _ _ _ (by omega), memory_read_write_other _ _ _ _ (by omega),
    memory_read_write_other _ _ _ _ (by omega)]

/-- A code of two bytes leaves every other address alone. -/
theorem storeCode16_read_other (m : List Host.Cell) (a b : Nat) (code : BitVec 16) (hb : b < a ∨ a + 1 < b) :
    Memory.read (storeCode16 m a code) b = Memory.read m b := by
  unfold storeCode16
  rw [memory_read_write_other _ _ _ _ (by omega), memory_read_write_other _ _ _ _ (by omega)]

/-- Storing channels leaves the registers of a channel that has no code, and every other register, alone. -/
theorem storeChannels_read_other (m : List Host.Cell) (p t : Option (BitVec 24)) (hum : Option (BitVec 16)) (b : Nat)
    (hp : p = none ∨ b < 0xF7 ∨ 0xF9 < b) (ht : t = none ∨ b < 0xFA ∨ 0xFC < b)
    (hh : hum = none ∨ b < 0xFD ∨ 0xFE < b) : Memory.read (storeChannels m p t hum) b = Memory.read m b := by
  have h1 : Memory.read (storeChannels m p none none) b = Memory.read m b := by
    cases p with
    | none => rfl
    | some code => exact storeCode24_read_other m 0xF7 b code (by simpa using hp)
  have h2 : Memory.read (storeChannels m p t none) b = Memory.read m b := by
    cases t with
    | none => exact h1
    | some code =>
      exact (storeCode24_read_other (storeChannels m p none none) 0xFA b code (by simpa using ht)).trans h1
  cases hum with
  | none => exact h2
  | some code => exact (storeCode16_read_other (storeChannels m p t none) 0xFD b code (by simpa using hh)).trans h2

/-- A status byte keeps the canonical form. -/
theorem device_setStatus_wf (d : Device) (v : Byte) (h : Memory.wf d.regs = true) :
    Memory.wf (d.setStatus v).regs = true := memory_write_wf _ _ _ (by decide) h

/-- A write the device receives keeps the canonical form. -/
theorem device_write_wf (d : Device) (takes : Bool) (a v : Byte) (h : Memory.wf d.regs = true) :
    Memory.wf (d.write takes a v).regs = true := by
  unfold Device.write
  split
  · split
    · exact device_softReset_wf d h
    · exact h
  · split
    · exact memory_write_wf _ _ _ (by decide) h
    · split
      · exact storeChannels_wf _ _ _ _ (device_setStatus_wf _ _ (memory_write_wf _ _ _ (by decide) h))
      · split
        · split
          · exact h
          · exact memory_write_wf _ _ _ (by decide) h
        · exact h

/-- The end of a conversion keeps the canonical form. -/
theorem device_endConversion_wf (d : Device) (p t : BitVec 24) (hum : BitVec 16) (h : Memory.wf d.regs = true) :
    Memory.wf (d.endConversion p t hum).regs = true := by
  have hs : Memory.wf (d.storeConversion p t hum).regs = true := storeChannels_wf _ _ _ _ h
  refine device_setStatus_wf _ _ ?_
  unfold Device.leaveForced
  split
  · exact hs
  · exact memory_write_wf _ _ _ (by decide) hs

/-- A move of the device keeps the canonical form. -/
theorem device_move_wf (d : Device) (m : DeviceMove) (h : Memory.wf d.regs = true) :
    Memory.wf (d.move m).regs = true := by
  cases m with
  | copyDone => exact device_setStatus_wf d _ h
  | conversionStarts =>
    simp only [Device.move]
    split
    · exact device_setStatus_wf d _ h
    · exact h
  | conversionEnds p t hum =>
    simp only [Device.move]
    split
    · exact device_endConversion_wf d p t hum h
    · exact h
  | reservedStatus v => exact device_setStatus_wf d _ h

end Sys2Proof.Machine
end

