-- ==== Sys2Proof/Laws/Device.lean ====
section
/-! SUPPORT. Which bytes of the register space each write of the block and each move of the device can change. -/

namespace Sys2Proof.Machine

/-- A write of the humidity control register changes its own byte only, and not the oversampling in effect
(R65, R82). -/
theorem write_ctrlHum_bytes (d : Device) (k : Bool) (v : Byte) :
    sameBytesBut [0xF2] d (d.write k Config.regCtrlHum v) ∧ (d.write k Config.regCtrlHum v).oshEff = d.oshEff := by
  refine ⟨fun a ha => ?_, rfl⟩
  have h : a ≠ 0xF2 := by simpa using ha
  simpa [Device.write, Config.regCtrlHum, Config.regReset] using memory_read_write_other d.regs 0xF2 a v h

/-- A write of the configuration register changes its own byte at most (R67, R86). -/
theorem write_config_bytes (d : Device) (k : Bool) (v : Byte) :
    sameBytesBut [0xF5] d (d.write k Config.regConfig v) ∧ (d.write k Config.regConfig v).oshEff = d.oshEff := by
  constructor
  · intro a ha
    have h : a ≠ 0xF5 := by simpa using ha
    simp [Device.write, Config.regCtrlHum, Config.regReset, Config.regConfig, Config.regCtrlMeas]
    split
    · rfl
    · exact memory_read_write_other d.regs 0xF5 a v h
  · simp [Device.write, Config.regCtrlHum, Config.regReset, Config.regConfig, Config.regCtrlMeas]
    split <;> rfl

/-- The oversampling fields are read from the byte of `REG_CTRL_MEAS` alone (R66). -/
theorem skipped_of_ctrlMeas {d e : Device} (a : Nat) (hm : Memory.read e.regs 0xF4 = Memory.read d.regs 0xF4)
    (ho : e.oshEff = d.oshEff) : e.skipped a = d.skipped a := by
  simp only [Device.skipped, Device.osrsP, Device.osrsT, hm, ho]

/-- Whether a channel is skipped, at each of its registers (R68). -/
theorem skipped_press {d : Device} {a : Nat} (h : 0xF7 ≤ a ∧ a ≤ 0xF9) : d.skipped a = (d.osrsP == 0#3) := by
  have h1 : ¬(0xFA ≤ a ∧ a ≤ 0xFC) := by omega
  have h2 : ¬(0xFD ≤ a ∧ a ≤ 0xFE) := by omega
  simp [Device.skipped, h, h1, h2]
theorem skipped_temp {d : Device} {a : Nat} (h : 0xFA ≤ a ∧ a ≤ 0xFC) : d.skipped a = (d.osrsT == 0#3) := by
  have h1 : ¬(0xF7 ≤ a ∧ a ≤ 0xF9) := by omega
  have h2 : ¬(0xFD ≤ a ∧ a ≤ 0xFE) := by omega
  simp [Device.skipped, h, h1, h2]
theorem skipped_hum {d : Device} {a : Nat} (h : 0xFD ≤ a ∧ a ≤ 0xFE) : d.skipped a = (d.oshEff == 0#3) := by
  have h1 : ¬(0xF7 ≤ a ∧ a ≤ 0xF9) := by omega
  have h2 : ¬(0xFA ≤ a ∧ a ≤ 0xFC) := by omega
  simp [Device.skipped, h, h1, h2]
theorem skipped_other {d : Device} {a : Nat} (h : isData a = false) : d.skipped a = false := by
  simp only [isData, decide_eq_false_iff_not] at h
  have h1 : ¬(0xF7 ≤ a ∧ a ≤ 0xF9) := by omega
  have h2 : ¬(0xFA ≤ a ∧ a ≤ 0xFC) := by omega
  have h3 : ¬(0xFD ≤ a ∧ a ≤ 0xFE) := by omega
  simp [Device.skipped, h1, h2, h3]

/-- Only a data register can be one of a skipped channel. -/
theorem isData_of_skipped {d : Device} {a : Nat} (h : d.skipped a = true) : isData a = true := by
  cases hd : isData a with
  | true => rfl
  | false => rw [skipped_other hd] at h; exact absurd h (by decide)

/-- A register that holds its reset value reads it, whether its channel is skipped or not (R68). -/
theorem read_of_sentinel {d : Device} {a : Byte} (h : Memory.read d.regs a.toNat = resetByte a.toNat) :
    d.read a = resetByte a.toNat := by
  unfold Device.read
  split
  · rfl
  · exact h

/-- Giving the skipped channels their sentinel leaves every register of another channel, and every register that
is no data register, alone. -/
theorem clearSkipped_read (d : Device) (a : Nat) (h : d.skipped a = false) :
    Memory.read d.clearSkipped.regs a = Memory.read d.regs a := by
  refine storeChannels_read_other _ _ _ _ _ ?_ ?_ ?_
  · by_cases ha : 0xF7 ≤ a ∧ a ≤ 0xF9
    · rw [skipped_press ha] at h
      have : d.osrsP ≠ 0#3 := by simpa using h
      exact .inl (if_neg this)
    · exact .inr (by omega)
  · by_cases ha : 0xFA ≤ a ∧ a ≤ 0xFC
    · rw [skipped_temp ha] at h
      have : d.osrsT ≠ 0#3 := by simpa using h
      exact .inl (if_neg this)
    · exact .inr (by omega)
  · by_cases ha : 0xFD ≤ a ∧ a ≤ 0xFE
    · rw [skipped_hum ha] at h
      have : d.oshEff ≠ 0#3 := by simpa using h
      exact .inl (if_neg this)
    · exact .inr (by omega)

/-- It leaves the control and status registers and the oversampling in effect. -/
theorem clearSkipped_low (d : Device) (a : Nat) (h : a < 0xF7) :
    Memory.read d.clearSkipped.regs a = Memory.read d.regs a :=
  clearSkipped_read d a (skipped_other (by simp [isData]; omega))
@[simp] theorem clearSkipped_oshEff (d : Device) : d.clearSkipped.oshEff = d.oshEff := rfl
@[simp] theorem clearSkipped_skipped (d : Device) (a : Nat) : d.clearSkipped.skipped a = d.skipped a :=
  skipped_of_ctrlMeas a (clearSkipped_low d 0xF4 (by decide)) rfl

/-- A write the device receives at `REG_CTRL_MEAS` (R66). -/
theorem write_ctrlMeas (d : Device) (k : Bool) (v : Byte) : d.write k Config.regCtrlMeas v = d.writeCtrlMeas v := rfl

/-- A register that no rule lets the block write takes nothing (R60; log 17). -/
theorem write_elsewhere (d : Device) (k : Bool) (a v : Byte) (hr : a ≠ Config.regReset) (hh : a ≠ Config.regCtrlHum)
    (hm : a ≠ Config.regCtrlMeas) (hc : a ≠ Config.regConfig) : d.write k a v = d := by
  unfold Device.write
  rw [if_neg hr, if_neg hh, if_neg hm, if_neg hc]

/-- The mode and the `measuring` bit after a write of the measurement control register (R64, R66). -/
theorem write_ctrlMeas_mode (d : Device) (k : Bool) (v : Byte) (h : Memory.wf d.regs = true) :
    (d.write k Config.regCtrlMeas v).mode = v.extractLsb' 0 2 ∧
    (d.write k Config.regCtrlMeas v).measuring = measuringAfter (v.extractLsb' 0 2) d.measuring := by
  have hw := memory_write_wf d.regs 0xF4 v (by decide) h
  rw [write_ctrlMeas]
  simp only [Device.writeCtrlMeas, Device.mode, Device.measuring]
  rw [clearSkipped_low _ _ (by decide), clearSkipped_low _ _ (by decide)]
  simp only [Device.setStatus]
  rw [memory_read_write_other _ _ _ _ (by decide), memory_read_write_same _ _ _ 0 h, memory_read_write_same _ _ _ 0 hw]
  refine ⟨rfl, ?_⟩
  generalize Memory.read d.regs 0xF3 = st
  generalize measuringAfter _ _ = b
  revert st
  cases b <;> decide

/-- A write of the measurement control register changes its own byte, the status byte, and the data registers of
the channels that are Skip afterwards (R64, R66, R68). -/
theorem write_ctrlMeas_bytes (d : Device) (k : Bool) (v : Byte) :
    ctrlMeasStores d (d.write k Config.regCtrlMeas v) := by
  intro a ha hs
  simp only [List.mem_cons, List.not_mem_nil, or_false, not_or] at ha
  rw [write_ctrlMeas, Device.writeCtrlMeas] at hs ⊢
  rw [clearSkipped_skipped] at hs
  rw [clearSkipped_read _ _ hs]
  simp only [Device.setStatus]
  rw [memory_read_write_other _ _ _ _ ha.2, memory_read_write_other _ _ _ _ ha.1]

/-- Dropping the cells from 0xF2 on leaves the bytes below. -/
theorem memory_read_filter_low (m : List Host.Cell) (a : Nat) (h : a < 0xF2) :
    Memory.read (m.filter (fun c => decide (c.1 < 0xF2))) a = Memory.read m a := by
  induction m with
  | nil => rfl
  | cons c r ih =>
    obtain ⟨k, x⟩ := c
    simp only [List.filter_cons]
    split
    · simp only [Memory.read, ih]
    · next hk =>
      have : k ≠ a := by
        intro he
        exact hk (by simp only [decide_eq_true_eq]; omega)
      simp only [Memory.read, ih, if_neg this]

/-- Every register from 0xF2 on but the status has its reset value after a soft reset (R83, R84). -/
theorem softReset_high (d : Device) (a : Nat) (ha : 0xF2 ≤ a) (h3 : a ≠ 0xF3) :
    Memory.read d.softReset.regs a = resetByte a := by
  unfold Device.softReset
  rw [memory_read_write_other _ _ _ _ h3]
  induction d.regs with
  | nil => rfl
  | cons c r ih =>
    obtain ⟨k, x⟩ := c
    simp only [List.filter_cons]
    split
    · next hk =>
      simp only [decide_eq_true_eq] at hk
      simp only [Memory.read, ih, if_neg (show k ≠ a by omega)]
    · exact ih

/-- A write of the reset register leaves every byte below 0xF2 (R63, R84, R85). -/
theorem write_reset_bytes (d : Device) (k : Bool) (v : Byte) (a : Nat) (h : a < 0xF2) :
    Memory.read (d.write k Config.regReset v).regs a = Memory.read d.regs a := by
  simp only [Device.write, if_true]
  split
  · simp only [Device.softReset]
    rw [memory_read_write_other _ _ _ _ (by omega), memory_read_filter_low _ _ h]
  · rfl

/-- Storing a conversion leaves the registers of a skipped channel, and every register that is no data register,
alone (R68). -/
theorem storeConversion_read (d : Device) (p t : BitVec 24) (hum : BitVec 16) (a : Nat)
    (h : d.skipped a = true ∨ isData a = false) :
    Memory.read (d.storeConversion p t hum).regs a = Memory.read d.regs a := by
  refine storeChannels_read_other _ _ _ _ _ ?_ ?_ ?_
  · by_cases ha : 0xF7 ≤ a ∧ a ≤ 0xF9
    · have hd : isData a = true := by simp [isData]; omega
      rw [skipped_press ha] at h
      exact .inl (if_pos (by simpa [hd] using h))
    · exact .inr (by omega)
  · by_cases ha : 0xFA ≤ a ∧ a ≤ 0xFC
    · have hd : isData a = true := by simp [isData]; omega
      rw [skipped_temp ha] at h
      exact .inl (if_pos (by simpa [hd] using h))
    · exact .inr (by omega)
  · by_cases ha : 0xFD ≤ a ∧ a ≤ 0xFE
    · have hd : isData a = true := by simp [isData]; omega
      rw [skipped_hum ha] at h
      exact .inl (if_pos (by simpa [hd] using h))
    · exact .inr (by omega)

/-! ### Codes in the data registers (R68, R73) -/

/-- A code of three bytes is read back byte by byte. -/
theorem storeCode24_read (m : List Host.Cell) (a : Nat) (code : BitVec 24) (ha : a + 2 < 256) (h : Memory.wf m = true) :
    Memory.read (storeCode24 m a code) a = code.extractLsb' 16 8 ∧
    Memory.read (storeCode24 m a code) (a + 1) = code.extractLsb' 8 8 ∧
    Memory.read (storeCode24 m a code) (a + 2) = code.extractLsb' 0 8 := by
  have h1 := memory_write_wf m a (code.extractLsb' 16 8) (by omega) h
  have h2 := memory_write_wf _ (a + 1) (code.extractLsb' 8 8) (by omega) h1
  refine ⟨?_, ?_, memory_read_write_same _ _ _ 0 h2⟩
  · simp only [storeCode24]
    rw [memory_read_write_other _ _ _ _ (by omega), memory_read_write_other _ _ _ _ (by omega)]
    exact memory_read_write_same _ _ _ 0 h
  · simp only [storeCode24]
    rw [memory_read_write_other _ _ _ _ (by omega)]
    exact memory_read_write_same _ _ _ 0 h1

/-- A code of two bytes is read back byte by byte. -/
theorem storeCode16_read (m : List Host.Cell) (a : Nat) (code : BitVec 16) (ha : a + 1 < 256) (h : Memory.wf m = true) :
    Memory.read (storeCode16 m a code) a = code.extractLsb' 8 8 ∧
    Memory.read (storeCode16 m a code) (a + 1) = code.extractLsb' 0 8 := by
  have h1 := memory_write_wf m a (code.extractLsb' 8 8) (by omega) h
  refine ⟨?_, memory_read_write_same _ _ _ 0 h1⟩
  simp only [storeCode16]
  rw [memory_read_write_other _ _ _ _ (by omega)]
  exact memory_read_write_same _ _ _ 0 h

/-- Storing channels stores each channel's code at its own registers: what is read there does not depend on the
other channels. -/
theorem storeChannels_press (m : List Host.Cell) (code : BitVec 24) (t : Option (BitVec 24)) (hum : Option (BitVec 16))
    (b : Nat) (hb : b ≤ 0xF9) :
    Memory.read (storeChannels m (some code) t hum) b = Memory.read (storeCode24 m 0xF7 code) b :=
  storeChannels_read_other (storeCode24 m 0xF7 code) none t hum b (.inl rfl) (.inr (by omega)) (.inr (by omega))
theorem storeChannels_temp (m : List Host.Cell) (p : Option (BitVec 24)) (code : BitVec 24) (hum : Option (BitVec 16))
    (b : Nat) (hb : b ≤ 0xFC) :
    ∃ m', (Memory.wf m = true → Memory.wf m' = true) ∧
      Memory.read (storeChannels m p (some code) hum) b = Memory.read (storeCode24 m' 0xFA code) b := by
  refine ⟨storeChannels m p none none, fun h => storeChannels_wf _ _ _ _ h, ?_⟩
  cases p with
  | none => exact storeChannels_read_other (storeCode24 m 0xFA code) none none hum b (.inl rfl) (.inl rfl) (.inr (by omega))
  | some c =>
    exact storeChannels_read_other (storeCode24 (storeCode24 m 0xF7 c) 0xFA code) none none hum b (.inl rfl) (.inl rfl)
      (.inr (by omega))
theorem storeChannels_hum (m : List Host.Cell) (p t : Option (BitVec 24)) (code : BitVec 16) :
    storeChannels m p t (some code) = storeCode16 (storeChannels m p t none) 0xFD code := rfl

/-- A skipped channel's registers hold its sentinel once it is given it (R68). -/
theorem clearSkipped_sentinel (d : Device) (a : Nat) (hwf : Memory.wf d.regs = true) (h : d.skipped a = true) :
    Memory.read d.clearSkipped.regs a = resetByte a := by
  have hd := isData_of_skipped h
  simp [isData] at hd
  rcases Nat.lt_or_ge a 0xFA with h1 | h1
  · rw [skipped_press (by omega)] at h
    simp only [Device.clearSkipped, if_pos (show d.osrsP = 0#3 by simpa using h)]
    rw [storeChannels_press _ _ _ _ _ (by omega)]
    have rd := storeCode24_read d.regs 0xF7 0x800000#24 (by decide) hwf
    have : a = 0xF7 ∨ a = 0xF7+1 ∨ a = 0xF7+2 := by omega
    rcases this with rfl | rfl | rfl
    · rw [rd.1]; decide
    · rw [rd.2.1]; decide
    · rw [rd.2.2]; decide
  rcases Nat.lt_or_ge a 0xFD with h2 | h2
  · rw [skipped_temp (by omega)] at h
    simp only [Device.clearSkipped, if_pos (show d.osrsT = 0#3 by simpa using h)]
    obtain ⟨m', w, e⟩ := storeChannels_temp d.regs (if d.osrsP = 0#3 then some 8388608#24 else none) 0x800000#24 (if d.oshEff = 0#3 then some 32768#16 else none) a (by omega)
    rw [e]
    have rd := storeCode24_read m' 0xFA 0x800000#24 (by decide) (w hwf)
    have : a = 0xFA ∨ a = 0xFA+1 ∨ a = 0xFA+2 := by omega
    rcases this with rfl | rfl | rfl
    · rw [rd.1]; decide
    · rw [rd.2.1]; decide
    · rw [rd.2.2]; decide
  · rw [skipped_hum (by omega)] at h
    simp only [Device.clearSkipped, if_pos (show d.oshEff = 0#3 by simpa using h)]
    rw [storeChannels_hum]
    have rd := storeCode16_read (storeChannels d.regs (if d.osrsP = 0#3 then some 8388608#24 else none) (if d.osrsT = 0#3 then some 8388608#24 else none) none) 0xFD 0x8000#16 (by decide) (storeChannels_wf _ _ _ _ hwf)
    have : a = 0xFD ∨ a = 0xFD+1 := by omega
    rcases this with rfl | rfl
    · rw [rd.1]; decide
    · rw [rd.2]; decide

/-- The bytes of a code assemble to it (R112). -/
theorem code24_extract (p : BitVec 24) :
    code24 (p.extractLsb' 16 8) (p.extractLsb' 8 8) (p.extractLsb' 0 8) = p := by
  unfold code24
  apply BitVec.eq_of_getLsbD_eq
  intro i hi
  simp only [BitVec.getLsbD_append, BitVec.getLsbD_extractLsb']
  interval_cases i <;> simp
theorem code16_extract (h : BitVec 16) : code16 (h.extractLsb' 8 8) (h.extractLsb' 0 8) = h := by
  unfold code16
  apply BitVec.eq_of_getLsbD_eq
  intro i hi
  simp only [BitVec.getLsbD_append, BitVec.getLsbD_extractLsb']
  interval_cases i <;> simp

/-! ### Moves of the device -/

/-- A status byte changes no other register. -/
theorem setStatus_bytes (d : Device) (v : Byte) : sameBytesBut [0xF3] d (d.setStatus v) := by
  intro a ha
  exact memory_read_write_other _ _ _ _ (by simpa using ha)
@[simp] theorem setStatus_oshEff (d : Device) (v : Byte) : (d.setStatus v).oshEff = d.oshEff := rfl
theorem setStatus_status (d : Device) (v : Byte) (h : Memory.wf d.regs = true) :
    Memory.read (d.setStatus v).regs 0xF3 = v := memory_read_write_same _ _ _ 0 h
@[simp] theorem leaveForced_oshEff (d : Device) : d.leaveForced.oshEff = d.oshEff := by
  unfold Device.leaveForced
  split <;> rfl

/-- Leaving Forced mode changes no register but its own. -/
theorem leaveForced_bytes (d : Device) : sameBytesBut [0xF4] d d.leaveForced := by
  intro a ha
  unfold Device.leaveForced
  split
  · rfl
  · exact memory_read_write_other _ _ _ _ (by simpa using ha)

/-- Every move but the end of a conversion changes the status byte at most (R291; log 29). -/
theorem move_bytes (d : Device) (m : DeviceMove) (hm : ∀ p t h, m ≠ .conversionEnds p t h) :
    sameBytesBut [0xF3] d (d.move m) := by
  cases m with
  | copyDone => exact setStatus_bytes d _
  | conversionStarts =>
    simp only [Device.move]
    split
    · exact setStatus_bytes d _
    · exact fun _ _ => rfl
  | conversionEnds p t h => exact absurd rfl (hm p t h)
  | reservedStatus v => exact setStatus_bytes d _

/-- The end of a conversion changes the data registers of channels that are not skipped, the status byte and the mode
at most (R66, R68). -/
theorem endConversion_bytes (d : Device) (p t : BitVec 24) (h : BitVec 16) (a : Nat)
    (ha : d.skipped a = true ∨ isData a = false)
    (h3 : a ≠ 0xF3) (h4 : a ≠ 0xF4) : Memory.read (d.endConversion p t h).regs a = Memory.read d.regs a := by
  unfold Device.endConversion
  dsimp only
  rw [setStatus_bytes _ _ a (by simpa using h3), leaveForced_bytes _ a (by simpa using h4)]
  exact storeConversion_read d p t h a ha

/-- No move changes what is pending for the humidity channel or what is in effect (R82). -/
theorem move_hum (d : Device) (m : DeviceMove) :
    (d.move m).oshEff = d.oshEff ∧ Memory.read (d.move m).regs 0xF2 = Memory.read d.regs 0xF2 := by
  cases m with
  | conversionEnds p t h =>
    simp only [Device.move]
    split
    · exact ⟨by simp [Device.endConversion, Device.storeConversion], endConversion_bytes d p t h _ (.inr (by decide)) (by decide) (by decide)⟩
    · exact ⟨rfl, rfl⟩
  | copyDone => exact ⟨rfl, move_bytes d .copyDone (by simp) _ (by decide)⟩
  | reservedStatus v => exact ⟨rfl, move_bytes d (.reservedStatus v) (by simp) _ (by decide)⟩
  | conversionStarts =>
    refine ⟨?_, move_bytes d .conversionStarts (by simp) _ (by decide)⟩
    simp only [Device.move]
    split <;> rfl

end Sys2Proof.Machine
end

