-- ==== Sys2Proof/Laws/State.lean ====
section
/-! SUPPORT. One lemma per field per state update of the shared operations, each true by rfl, so that no proof
unfolds a record update. -/

namespace Sys2Proof.Machine

/-! ### `logEvent` -/

@[simp] theorem logEvent_seq (e : Event) (s : State) : (logEvent e s).seq = s.seq := rfl
@[simp] theorem logEvent_cmd (e : Event) (s : State) : (logEvent e s).cmd = s.cmd := rfl
@[simp] theorem logEvent_busy (e : Event) (s : State) : (logEvent e s).busy = s.busy := rfl
@[simp] theorem logEvent_life (e : Event) (s : State) : (logEvent e s).life = s.life := rfl
@[simp] theorem logEvent_failCode (e : Event) (s : State) : (logEvent e s).failCode = s.failCode := rfl
@[simp] theorem logEvent_cal (e : Event) (s : State) : (logEvent e s).cal = s.cal := rfl
@[simp] theorem logEvent_calValid (e : Event) (s : State) : (logEvent e s).calValid = s.calValid := rfl
@[simp] theorem logEvent_tfine (e : Event) (s : State) : (logEvent e s).tfine = s.tfine := rfl
@[simp] theorem logEvent_tfineValid (e : Event) (s : State) : (logEvent e s).tfineValid = s.tfineValid := rfl
@[simp] theorem logEvent_tfineSent (e : Event) (s : State) : (logEvent e s).tfineSent = s.tfineSent := rfl
@[simp] theorem logEvent_cfg (e : Event) (s : State) : (logEvent e s).cfg = s.cfg := rfl
@[simp] theorem logEvent_cfgValid (e : Event) (s : State) : (logEvent e s).cfgValid = s.cfgValid := rfl
@[simp] theorem logEvent_resp (e : Event) (s : State) : (logEvent e s).resp = s.resp := rfl
@[simp] theorem logEvent_respValid (e : Event) (s : State) : (logEvent e s).respValid = s.respValid := rfl
@[simp] theorem logEvent_polls (e : Event) (s : State) : (logEvent e s).polls = s.polls := rfl
@[simp] theorem logEvent_tmp (e : Event) (s : State) : (logEvent e s).tmp = s.tmp := rfl
@[simp] theorem logEvent_calPollLimit (e : Event) (s : State) : (logEvent e s).calPollLimit = s.calPollLimit := rfl
@[simp] theorem logEvent_hostQueue (e : Event) (s : State) : (logEvent e s).hostQueue = s.hostQueue := rfl
@[simp] theorem logEvent_busQueue (e : Event) (s : State) : (logEvent e s).busQueue = s.busQueue := rfl
@[simp] theorem logEvent_delayDone (e : Event) (s : State) : (logEvent e s).delayDone = s.delayDone := rfl
@[simp] theorem logEvent_resetReq (e : Event) (s : State) : (logEvent e s).resetReq = s.resetReq := rfl
@[simp] theorem logEvent_events (e : Event) (s : State) : (logEvent e s).events = s.events ++ [e] := rfl
@[simp] theorem logEvent_dev (e : Event) (s : State) : (logEvent e s).dev = s.dev := rfl

/-! ### `finish` -/

@[simp] theorem finish_seq (r : Response) (s : State) : (finish r s).seq = .idle := rfl
@[simp] theorem finish_cmd (r : Response) (s : State) : (finish r s).cmd = s.cmd := rfl
@[simp] theorem finish_busy (r : Response) (s : State) : (finish r s).busy = false := rfl
@[simp] theorem finish_life (r : Response) (s : State) : (finish r s).life = s.life := rfl
@[simp] theorem finish_failCode (r : Response) (s : State) : (finish r s).failCode = s.failCode := rfl
@[simp] theorem finish_cal (r : Response) (s : State) : (finish r s).cal = s.cal := rfl
@[simp] theorem finish_calValid (r : Response) (s : State) : (finish r s).calValid = s.calValid := rfl
@[simp] theorem finish_tfine (r : Response) (s : State) : (finish r s).tfine = s.tfine := rfl
@[simp] theorem finish_tfineValid (r : Response) (s : State) : (finish r s).tfineValid = s.tfineValid := rfl
@[simp] theorem finish_tfineSent (r : Response) (s : State) : (finish r s).tfineSent = s.tfineSent := rfl
@[simp] theorem finish_cfg (r : Response) (s : State) : (finish r s).cfg = s.cfg := rfl
@[simp] theorem finish_cfgValid (r : Response) (s : State) : (finish r s).cfgValid = s.cfgValid := rfl
@[simp] theorem finish_resp (r : Response) (s : State) : (finish r s).resp = r := rfl
@[simp] theorem finish_respValid (r : Response) (s : State) : (finish r s).respValid = true := rfl
@[simp] theorem finish_polls (r : Response) (s : State) : (finish r s).polls = s.polls := rfl
@[simp] theorem finish_tmp (r : Response) (s : State) : (finish r s).tmp = s.tmp := rfl
@[simp] theorem finish_calPollLimit (r : Response) (s : State) : (finish r s).calPollLimit = s.calPollLimit := rfl
@[simp] theorem finish_hostQueue (r : Response) (s : State) : (finish r s).hostQueue = s.hostQueue := rfl
@[simp] theorem finish_busQueue (r : Response) (s : State) : (finish r s).busQueue = s.busQueue := rfl
@[simp] theorem finish_delayDone (r : Response) (s : State) : (finish r s).delayDone = s.delayDone := rfl
@[simp] theorem finish_resetReq (r : Response) (s : State) : (finish r s).resetReq = s.resetReq := rfl
@[simp] theorem finish_events (r : Response) (s : State) : (finish r s).events = s.events ++ [.response r] := rfl
@[simp] theorem finish_dev (r : Response) (s : State) : (finish r s).dev = s.dev := rfl

/-! ### `raise` -/

@[simp] theorem raise_seq (e : ErrorKind) (info : Word) (s : State) : (raise e info s).seq = .idle := rfl
@[simp] theorem raise_cmd (e : ErrorKind) (info : Word) (s : State) : (raise e info s).cmd = s.cmd := rfl
@[simp] theorem raise_busy (e : ErrorKind) (info : Word) (s : State) : (raise e info s).busy = false := rfl
@[simp] theorem raise_life (e : ErrorKind) (info : Word) (s : State) : (raise e info s).life = s.life := rfl
@[simp] theorem raise_failCode (e : ErrorKind) (info : Word) (s : State) : (raise e info s).failCode = s.failCode := rfl
@[simp] theorem raise_cal (e : ErrorKind) (info : Word) (s : State) : (raise e info s).cal = s.cal := rfl
@[simp] theorem raise_calValid (e : ErrorKind) (info : Word) (s : State) : (raise e info s).calValid = s.calValid := rfl
@[simp] theorem raise_tfine (e : ErrorKind) (info : Word) (s : State) : (raise e info s).tfine = s.tfine := rfl
@[simp] theorem raise_tfineValid (e : ErrorKind) (info : Word) (s : State) : (raise e info s).tfineValid = s.tfineValid := rfl
@[simp] theorem raise_tfineSent (e : ErrorKind) (info : Word) (s : State) : (raise e info s).tfineSent = s.tfineSent := rfl
@[simp] theorem raise_cfg (e : ErrorKind) (info : Word) (s : State) : (raise e info s).cfg = s.cfg := rfl
@[simp] theorem raise_cfgValid (e : ErrorKind) (info : Word) (s : State) : (raise e info s).cfgValid = s.cfgValid := rfl
@[simp] theorem raise_resp (e : ErrorKind) (info : Word) (s : State) : (raise e info s).resp = { status := e.code, value := info, flags := 0#3 } := rfl
@[simp] theorem raise_respValid (e : ErrorKind) (info : Word) (s : State) : (raise e info s).respValid = true := rfl
@[simp] theorem raise_polls (e : ErrorKind) (info : Word) (s : State) : (raise e info s).polls = s.polls := rfl
@[simp] theorem raise_tmp (e : ErrorKind) (info : Word) (s : State) : (raise e info s).tmp = s.tmp := rfl
@[simp] theorem raise_calPollLimit (e : ErrorKind) (info : Word) (s : State) : (raise e info s).calPollLimit = s.calPollLimit := rfl
@[simp] theorem raise_hostQueue (e : ErrorKind) (info : Word) (s : State) : (raise e info s).hostQueue = s.hostQueue := rfl
@[simp] theorem raise_busQueue (e : ErrorKind) (info : Word) (s : State) : (raise e info s).busQueue = s.busQueue := rfl
@[simp] theorem raise_delayDone (e : ErrorKind) (info : Word) (s : State) : (raise e info s).delayDone = s.delayDone := rfl
@[simp] theorem raise_resetReq (e : ErrorKind) (info : Word) (s : State) : (raise e info s).resetReq = s.resetReq := rfl
@[simp] theorem raise_events (e : ErrorKind) (info : Word) (s : State) : (raise e info s).events = s.events ++ [.response { status := e.code, value := info, flags := 0#3 }] := rfl
@[simp] theorem raise_dev (e : ErrorKind) (info : Word) (s : State) : (raise e info s).dev = s.dev := rfl

/-! ### `respondOk` -/

@[simp] theorem respondOk_seq (value : Word) (flags : BitVec 3) (s : State) : (respondOk value flags s).seq = .idle := rfl
@[simp] theorem respondOk_cmd (value : Word) (flags : BitVec 3) (s : State) : (respondOk value flags s).cmd = s.cmd := rfl
@[simp] theorem respondOk_busy (value : Word) (flags : BitVec 3) (s : State) : (respondOk value flags s).busy = false := rfl
@[simp] theorem respondOk_life (value : Word) (flags : BitVec 3) (s : State) : (respondOk value flags s).life = s.life := rfl
@[simp] theorem respondOk_failCode (value : Word) (flags : BitVec 3) (s : State) : (respondOk value flags s).failCode = s.failCode := rfl
@[simp] theorem respondOk_cal (value : Word) (flags : BitVec 3) (s : State) : (respondOk value flags s).cal = s.cal := rfl
@[simp] theorem respondOk_calValid (value : Word) (flags : BitVec 3) (s : State) : (respondOk value flags s).calValid = s.calValid := rfl
@[simp] theorem respondOk_tfine (value : Word) (flags : BitVec 3) (s : State) : (respondOk value flags s).tfine = s.tfine := rfl
@[simp] theorem respondOk_tfineValid (value : Word) (flags : BitVec 3) (s : State) : (respondOk value flags s).tfineValid = s.tfineValid := rfl
@[simp] theorem respondOk_tfineSent (value : Word) (flags : BitVec 3) (s : State) : (respondOk value flags s).tfineSent = s.tfineSent := rfl
@[simp] theorem respondOk_cfg (value : Word) (flags : BitVec 3) (s : State) : (respondOk value flags s).cfg = s.cfg := rfl
@[simp] theorem respondOk_cfgValid (value : Word) (flags : BitVec 3) (s : State) : (respondOk value flags s).cfgValid = s.cfgValid := rfl
@[simp] theorem respondOk_resp (value : Word) (flags : BitVec 3) (s : State) : (respondOk value flags s).resp = { status := 0x0#4, value := value, flags := flags } := rfl
@[simp] theorem respondOk_respValid (value : Word) (flags : BitVec 3) (s : State) : (respondOk value flags s).respValid = true := rfl
@[simp] theorem respondOk_polls (value : Word) (flags : BitVec 3) (s : State) : (respondOk value flags s).polls = s.polls := rfl
@[simp] theorem respondOk_tmp (value : Word) (flags : BitVec 3) (s : State) : (respondOk value flags s).tmp = s.tmp := rfl
@[simp] theorem respondOk_calPollLimit (value : Word) (flags : BitVec 3) (s : State) : (respondOk value flags s).calPollLimit = s.calPollLimit := rfl
@[simp] theorem respondOk_hostQueue (value : Word) (flags : BitVec 3) (s : State) : (respondOk value flags s).hostQueue = s.hostQueue := rfl
@[simp] theorem respondOk_busQueue (value : Word) (flags : BitVec 3) (s : State) : (respondOk value flags s).busQueue = s.busQueue := rfl
@[simp] theorem respondOk_delayDone (value : Word) (flags : BitVec 3) (s : State) : (respondOk value flags s).delayDone = s.delayDone := rfl
@[simp] theorem respondOk_resetReq (value : Word) (flags : BitVec 3) (s : State) : (respondOk value flags s).resetReq = s.resetReq := rfl
@[simp] theorem respondOk_events (value : Word) (flags : BitVec 3) (s : State) : (respondOk value flags s).events = s.events ++ [.response { status := 0x0#4, value := value, flags := flags }] := rfl
@[simp] theorem respondOk_dev (value : Word) (flags : BitVec 3) (s : State) : (respondOk value flags s).dev = s.dev := rfl

/-! ### `accept` -/

@[simp] theorem accept_seq (w : Word) (rest : List Word) (s : State) : (accept w rest s).seq = .idle := rfl
@[simp] theorem accept_cmd (w : Word) (rest : List Word) (s : State) : (accept w rest s).cmd = w := rfl
@[simp] theorem accept_busy (w : Word) (rest : List Word) (s : State) : (accept w rest s).busy = true := rfl
@[simp] theorem accept_life (w : Word) (rest : List Word) (s : State) : (accept w rest s).life = s.life := rfl
@[simp] theorem accept_failCode (w : Word) (rest : List Word) (s : State) : (accept w rest s).failCode = s.failCode := rfl
@[simp] theorem accept_cal (w : Word) (rest : List Word) (s : State) : (accept w rest s).cal = s.cal := rfl
@[simp] theorem accept_calValid (w : Word) (rest : List Word) (s : State) : (accept w rest s).calValid = s.calValid := rfl
@[simp] theorem accept_tfine (w : Word) (rest : List Word) (s : State) : (accept w rest s).tfine = s.tfine := rfl
@[simp] theorem accept_tfineValid (w : Word) (rest : List Word) (s : State) : (accept w rest s).tfineValid = s.tfineValid := rfl
@[simp] theorem accept_tfineSent (w : Word) (rest : List Word) (s : State) : (accept w rest s).tfineSent = s.tfineSent := rfl
@[simp] theorem accept_cfg (w : Word) (rest : List Word) (s : State) : (accept w rest s).cfg = s.cfg := rfl
@[simp] theorem accept_cfgValid (w : Word) (rest : List Word) (s : State) : (accept w rest s).cfgValid = s.cfgValid := rfl
@[simp] theorem accept_resp (w : Word) (rest : List Word) (s : State) : (accept w rest s).resp = s.resp := rfl
@[simp] theorem accept_respValid (w : Word) (rest : List Word) (s : State) : (accept w rest s).respValid = s.respValid := rfl
@[simp] theorem accept_polls (w : Word) (rest : List Word) (s : State) : (accept w rest s).polls = s.polls := rfl
@[simp] theorem accept_tmp (w : Word) (rest : List Word) (s : State) : (accept w rest s).tmp = s.tmp := rfl
@[simp] theorem accept_calPollLimit (w : Word) (rest : List Word) (s : State) : (accept w rest s).calPollLimit = s.calPollLimit := rfl
@[simp] theorem accept_hostQueue (w : Word) (rest : List Word) (s : State) : (accept w rest s).hostQueue = rest := rfl
@[simp] theorem accept_busQueue (w : Word) (rest : List Word) (s : State) : (accept w rest s).busQueue = s.busQueue := rfl
@[simp] theorem accept_delayDone (w : Word) (rest : List Word) (s : State) : (accept w rest s).delayDone = s.delayDone := rfl
@[simp] theorem accept_resetReq (w : Word) (rest : List Word) (s : State) : (accept w rest s).resetReq = s.resetReq := rfl
@[simp] theorem accept_events (w : Word) (rest : List Word) (s : State) : (accept w rest s).events = s.events ++ [.accept w] := rfl
@[simp] theorem accept_dev (w : Word) (rest : List Word) (s : State) : (accept w rest s).dev = s.dev := rfl

/-! ### `blockReset` -/

@[simp] theorem blockReset_seq (s : State) : (blockReset s).seq = State.reset.seq := rfl
@[simp] theorem blockReset_cmd (s : State) : (blockReset s).cmd = State.reset.cmd := rfl
@[simp] theorem blockReset_busy (s : State) : (blockReset s).busy = State.reset.busy := rfl
@[simp] theorem blockReset_life (s : State) : (blockReset s).life = State.reset.life := rfl
@[simp] theorem blockReset_failCode (s : State) : (blockReset s).failCode = State.reset.failCode := rfl
@[simp] theorem blockReset_cal (s : State) : (blockReset s).cal = State.reset.cal := rfl
@[simp] theorem blockReset_calValid (s : State) : (blockReset s).calValid = State.reset.calValid := rfl
@[simp] theorem blockReset_tfine (s : State) : (blockReset s).tfine = State.reset.tfine := rfl
@[simp] theorem blockReset_tfineValid (s : State) : (blockReset s).tfineValid = State.reset.tfineValid := rfl
@[simp] theorem blockReset_tfineSent (s : State) : (blockReset s).tfineSent = State.reset.tfineSent := rfl
@[simp] theorem blockReset_cfg (s : State) : (blockReset s).cfg = State.reset.cfg := rfl
@[simp] theorem blockReset_cfgValid (s : State) : (blockReset s).cfgValid = State.reset.cfgValid := rfl
@[simp] theorem blockReset_resp (s : State) : (blockReset s).resp = State.reset.resp := rfl
@[simp] theorem blockReset_respValid (s : State) : (blockReset s).respValid = State.reset.respValid := rfl
@[simp] theorem blockReset_polls (s : State) : (blockReset s).polls = State.reset.polls := rfl
@[simp] theorem blockReset_tmp (s : State) : (blockReset s).tmp = State.reset.tmp := rfl
@[simp] theorem blockReset_calPollLimit (s : State) : (blockReset s).calPollLimit = s.calPollLimit := rfl
@[simp] theorem blockReset_hostQueue (s : State) : (blockReset s).hostQueue = s.hostQueue := rfl
@[simp] theorem blockReset_busQueue (s : State) : (blockReset s).busQueue = s.busQueue := rfl
@[simp] theorem blockReset_delayDone (s : State) : (blockReset s).delayDone = s.delayDone := rfl
@[simp] theorem blockReset_resetReq (s : State) : (blockReset s).resetReq = State.reset.resetReq := rfl
@[simp] theorem blockReset_events (s : State) : (blockReset s).events = State.reset.events := rfl
@[simp] theorem blockReset_dev (s : State) : (blockReset s).dev = s.dev := rfl

/-! ### `deviceMove` -/

@[simp] theorem deviceMove_seq (m : DeviceMove) (rest : List BusItem) (s : State) : (deviceMove m rest s).seq = s.seq := rfl
@[simp] theorem deviceMove_cmd (m : DeviceMove) (rest : List BusItem) (s : State) : (deviceMove m rest s).cmd = s.cmd := rfl
@[simp] theorem deviceMove_busy (m : DeviceMove) (rest : List BusItem) (s : State) : (deviceMove m rest s).busy = s.busy := rfl
@[simp] theorem deviceMove_life (m : DeviceMove) (rest : List BusItem) (s : State) : (deviceMove m rest s).life = s.life := rfl
@[simp] theorem deviceMove_failCode (m : DeviceMove) (rest : List BusItem) (s : State) : (deviceMove m rest s).failCode = s.failCode := rfl
@[simp] theorem deviceMove_cal (m : DeviceMove) (rest : List BusItem) (s : State) : (deviceMove m rest s).cal = s.cal := rfl
@[simp] theorem deviceMove_calValid (m : DeviceMove) (rest : List BusItem) (s : State) : (deviceMove m rest s).calValid = s.calValid := rfl
@[simp] theorem deviceMove_tfine (m : DeviceMove) (rest : List BusItem) (s : State) : (deviceMove m rest s).tfine = s.tfine := rfl
@[simp] theorem deviceMove_tfineValid (m : DeviceMove) (rest : List BusItem) (s : State) : (deviceMove m rest s).tfineValid = s.tfineValid := rfl
@[simp] theorem deviceMove_tfineSent (m : DeviceMove) (rest : List BusItem) (s : State) : (deviceMove m rest s).tfineSent = s.tfineSent := rfl
@[simp] theorem deviceMove_cfg (m : DeviceMove) (rest : List BusItem) (s : State) : (deviceMove m rest s).cfg = s.cfg := rfl
@[simp] theorem deviceMove_cfgValid (m : DeviceMove) (rest : List BusItem) (s : State) : (deviceMove m rest s).cfgValid = s.cfgValid := rfl
@[simp] theorem deviceMove_resp (m : DeviceMove) (rest : List BusItem) (s : State) : (deviceMove m rest s).resp = s.resp := rfl
@[simp] theorem deviceMove_respValid (m : DeviceMove) (rest : List BusItem) (s : State) : (deviceMove m rest s).respValid = s.respValid := rfl
@[simp] theorem deviceMove_polls (m : DeviceMove) (rest : List BusItem) (s : State) : (deviceMove m rest s).polls = s.polls := rfl
@[simp] theorem deviceMove_tmp (m : DeviceMove) (rest : List BusItem) (s : State) : (deviceMove m rest s).tmp = s.tmp := rfl
@[simp] theorem deviceMove_calPollLimit (m : DeviceMove) (rest : List BusItem) (s : State) : (deviceMove m rest s).calPollLimit = s.calPollLimit := rfl
@[simp] theorem deviceMove_hostQueue (m : DeviceMove) (rest : List BusItem) (s : State) : (deviceMove m rest s).hostQueue = s.hostQueue := rfl
@[simp] theorem deviceMove_busQueue (m : DeviceMove) (rest : List BusItem) (s : State) : (deviceMove m rest s).busQueue = rest := rfl
@[simp] theorem deviceMove_delayDone (m : DeviceMove) (rest : List BusItem) (s : State) : (deviceMove m rest s).delayDone = s.delayDone := rfl
@[simp] theorem deviceMove_resetReq (m : DeviceMove) (rest : List BusItem) (s : State) : (deviceMove m rest s).resetReq = s.resetReq := rfl
@[simp] theorem deviceMove_events (m : DeviceMove) (rest : List BusItem) (s : State) : (deviceMove m rest s).events = s.events := rfl
@[simp] theorem deviceMove_dev (m : DeviceMove) (rest : List BusItem) (s : State) : (deviceMove m rest s).dev = s.dev.move m := rfl

/-! ### `applyConfigEntry` -/

@[simp] theorem applyConfigEntry_seq (s : State) : (applyConfigEntry s).seq = s.seq := rfl
@[simp] theorem applyConfigEntry_cmd (s : State) : (applyConfigEntry s).cmd = s.cmd := rfl
@[simp] theorem applyConfigEntry_busy (s : State) : (applyConfigEntry s).busy = s.busy := rfl
@[simp] theorem applyConfigEntry_life (s : State) : (applyConfigEntry s).life = s.life := rfl
@[simp] theorem applyConfigEntry_failCode (s : State) : (applyConfigEntry s).failCode = s.failCode := rfl
@[simp] theorem applyConfigEntry_cal (s : State) : (applyConfigEntry s).cal = s.cal := rfl
@[simp] theorem applyConfigEntry_calValid (s : State) : (applyConfigEntry s).calValid = s.calValid := rfl
@[simp] theorem applyConfigEntry_tfine (s : State) : (applyConfigEntry s).tfine = s.tfine := rfl
@[simp] theorem applyConfigEntry_tfineValid (s : State) : (applyConfigEntry s).tfineValid = false := rfl
@[simp] theorem applyConfigEntry_tfineSent (s : State) : (applyConfigEntry s).tfineSent = s.tfineSent := rfl
@[simp] theorem applyConfigEntry_cfg (s : State) : (applyConfigEntry s).cfg = s.cfg := rfl
@[simp] theorem applyConfigEntry_cfgValid (s : State) : (applyConfigEntry s).cfgValid = false := rfl
@[simp] theorem applyConfigEntry_resp (s : State) : (applyConfigEntry s).resp = s.resp := rfl
@[simp] theorem applyConfigEntry_respValid (s : State) : (applyConfigEntry s).respValid = s.respValid := rfl
@[simp] theorem applyConfigEntry_polls (s : State) : (applyConfigEntry s).polls = s.polls := rfl
@[simp] theorem applyConfigEntry_tmp (s : State) : (applyConfigEntry s).tmp = s.tmp := rfl
@[simp] theorem applyConfigEntry_calPollLimit (s : State) : (applyConfigEntry s).calPollLimit = s.calPollLimit := rfl
@[simp] theorem applyConfigEntry_hostQueue (s : State) : (applyConfigEntry s).hostQueue = s.hostQueue := rfl
@[simp] theorem applyConfigEntry_busQueue (s : State) : (applyConfigEntry s).busQueue = s.busQueue := rfl
@[simp] theorem applyConfigEntry_delayDone (s : State) : (applyConfigEntry s).delayDone = s.delayDone := rfl
@[simp] theorem applyConfigEntry_resetReq (s : State) : (applyConfigEntry s).resetReq = s.resetReq := rfl
@[simp] theorem applyConfigEntry_events (s : State) : (applyConfigEntry s).events = s.events := rfl
@[simp] theorem applyConfigEntry_dev (s : State) : (applyConfigEntry s).dev = s.dev := rfl

/-! ### `initFailEffects` -/

@[simp] theorem initFailEffects_seq (e : ErrorKind) (s : State) : (initFailEffects e s).seq = s.seq := rfl
@[simp] theorem initFailEffects_cmd (e : ErrorKind) (s : State) : (initFailEffects e s).cmd = s.cmd := rfl
@[simp] theorem initFailEffects_busy (e : ErrorKind) (s : State) : (initFailEffects e s).busy = s.busy := rfl
@[simp] theorem initFailEffects_life (e : ErrorKind) (s : State) : (initFailEffects e s).life = .failed := rfl
@[simp] theorem initFailEffects_failCode (e : ErrorKind) (s : State) : (initFailEffects e s).failCode = e.code := rfl
@[simp] theorem initFailEffects_cal (e : ErrorKind) (s : State) : (initFailEffects e s).cal = s.cal := rfl
@[simp] theorem initFailEffects_calValid (e : ErrorKind) (s : State) : (initFailEffects e s).calValid = false := rfl
@[simp] theorem initFailEffects_tfine (e : ErrorKind) (s : State) : (initFailEffects e s).tfine = s.tfine := rfl
@[simp] theorem initFailEffects_tfineValid (e : ErrorKind) (s : State) : (initFailEffects e s).tfineValid = false := rfl
@[simp] theorem initFailEffects_tfineSent (e : ErrorKind) (s : State) : (initFailEffects e s).tfineSent = s.tfineSent := rfl
@[simp] theorem initFailEffects_cfg (e : ErrorKind) (s : State) : (initFailEffects e s).cfg = s.cfg := rfl
@[simp] theorem initFailEffects_cfgValid (e : ErrorKind) (s : State) : (initFailEffects e s).cfgValid = false := rfl
@[simp] theorem initFailEffects_resp (e : ErrorKind) (s : State) : (initFailEffects e s).resp = s.resp := rfl
@[simp] theorem initFailEffects_respValid (e : ErrorKind) (s : State) : (initFailEffects e s).respValid = s.respValid := rfl
@[simp] theorem initFailEffects_polls (e : ErrorKind) (s : State) : (initFailEffects e s).polls = s.polls := rfl
@[simp] theorem initFailEffects_tmp (e : ErrorKind) (s : State) : (initFailEffects e s).tmp = s.tmp := rfl
@[simp] theorem initFailEffects_calPollLimit (e : ErrorKind) (s : State) : (initFailEffects e s).calPollLimit = s.calPollLimit := rfl
@[simp] theorem initFailEffects_hostQueue (e : ErrorKind) (s : State) : (initFailEffects e s).hostQueue = s.hostQueue := rfl
@[simp] theorem initFailEffects_busQueue (e : ErrorKind) (s : State) : (initFailEffects e s).busQueue = s.busQueue := rfl
@[simp] theorem initFailEffects_delayDone (e : ErrorKind) (s : State) : (initFailEffects e s).delayDone = s.delayDone := rfl
@[simp] theorem initFailEffects_resetReq (e : ErrorKind) (s : State) : (initFailEffects e s).resetReq = s.resetReq := rfl
@[simp] theorem initFailEffects_events (e : ErrorKind) (s : State) : (initFailEffects e s).events = s.events := rfl
@[simp] theorem initFailEffects_dev (e : ErrorKind) (s : State) : (initFailEffects e s).dev = s.dev := rfl

/-! ### `holdResult` -/

@[simp] theorem holdResult_seq (value : Word) (flags : BitVec 3) (q : Seq) (s : State) : (holdResult value flags q s).seq = q := rfl
@[simp] theorem holdResult_cmd (value : Word) (flags : BitVec 3) (q : Seq) (s : State) : (holdResult value flags q s).cmd = s.cmd := rfl
@[simp] theorem holdResult_busy (value : Word) (flags : BitVec 3) (q : Seq) (s : State) : (holdResult value flags q s).busy = s.busy := rfl
@[simp] theorem holdResult_life (value : Word) (flags : BitVec 3) (q : Seq) (s : State) : (holdResult value flags q s).life = s.life := rfl
@[simp] theorem holdResult_failCode (value : Word) (flags : BitVec 3) (q : Seq) (s : State) : (holdResult value flags q s).failCode = s.failCode := rfl
@[simp] theorem holdResult_cal (value : Word) (flags : BitVec 3) (q : Seq) (s : State) : (holdResult value flags q s).cal = s.cal := rfl
@[simp] theorem holdResult_calValid (value : Word) (flags : BitVec 3) (q : Seq) (s : State) : (holdResult value flags q s).calValid = s.calValid := rfl
@[simp] theorem holdResult_tfine (value : Word) (flags : BitVec 3) (q : Seq) (s : State) : (holdResult value flags q s).tfine = s.tfine := rfl
@[simp] theorem holdResult_tfineValid (value : Word) (flags : BitVec 3) (q : Seq) (s : State) : (holdResult value flags q s).tfineValid = s.tfineValid := rfl
@[simp] theorem holdResult_tfineSent (value : Word) (flags : BitVec 3) (q : Seq) (s : State) : (holdResult value flags q s).tfineSent = s.tfineSent := rfl
@[simp] theorem holdResult_cfg (value : Word) (flags : BitVec 3) (q : Seq) (s : State) : (holdResult value flags q s).cfg = s.cfg := rfl
@[simp] theorem holdResult_cfgValid (value : Word) (flags : BitVec 3) (q : Seq) (s : State) : (holdResult value flags q s).cfgValid = s.cfgValid := rfl
@[simp] theorem holdResult_resp (value : Word) (flags : BitVec 3) (q : Seq) (s : State) : (holdResult value flags q s).resp = s.resp := rfl
@[simp] theorem holdResult_respValid (value : Word) (flags : BitVec 3) (q : Seq) (s : State) : (holdResult value flags q s).respValid = s.respValid := rfl
@[simp] theorem holdResult_polls (value : Word) (flags : BitVec 3) (q : Seq) (s : State) : (holdResult value flags q s).polls = s.polls := rfl
@[simp] theorem holdResult_tmp (value : Word) (flags : BitVec 3) (q : Seq) (s : State) : (holdResult value flags q s).tmp = { s.tmp with value := value, flags := flags } := rfl
@[simp] theorem holdResult_calPollLimit (value : Word) (flags : BitVec 3) (q : Seq) (s : State) : (holdResult value flags q s).calPollLimit = s.calPollLimit := rfl
@[simp] theorem holdResult_hostQueue (value : Word) (flags : BitVec 3) (q : Seq) (s : State) : (holdResult value flags q s).hostQueue = s.hostQueue := rfl
@[simp] theorem holdResult_busQueue (value : Word) (flags : BitVec 3) (q : Seq) (s : State) : (holdResult value flags q s).busQueue = s.busQueue := rfl
@[simp] theorem holdResult_delayDone (value : Word) (flags : BitVec 3) (q : Seq) (s : State) : (holdResult value flags q s).delayDone = s.delayDone := rfl
@[simp] theorem holdResult_resetReq (value : Word) (flags : BitVec 3) (q : Seq) (s : State) : (holdResult value flags q s).resetReq = s.resetReq := rfl
@[simp] theorem holdResult_events (value : Word) (flags : BitVec 3) (q : Seq) (s : State) : (holdResult value flags q s).events = s.events := rfl
@[simp] theorem holdResult_dev (value : Word) (flags : BitVec 3) (q : Seq) (s : State) : (holdResult value flags q s).dev = s.dev := rfl

/-! ### `placeWord` -/

@[simp] theorem placeWord_seq (w : Word) (s : State) : (placeWord w s).seq = .idle := rfl
@[simp] theorem placeWord_cmd (w : Word) (s : State) : (placeWord w s).cmd = s.cmd := rfl
@[simp] theorem placeWord_busy (w : Word) (s : State) : (placeWord w s).busy = false := rfl
@[simp] theorem placeWord_life (w : Word) (s : State) : (placeWord w s).life = s.life := rfl
@[simp] theorem placeWord_failCode (w : Word) (s : State) : (placeWord w s).failCode = s.failCode := rfl
@[simp] theorem placeWord_cal (w : Word) (s : State) : (placeWord w s).cal = s.cal := rfl
@[simp] theorem placeWord_calValid (w : Word) (s : State) : (placeWord w s).calValid = s.calValid := rfl
@[simp] theorem placeWord_tfine (w : Word) (s : State) : (placeWord w s).tfine = s.tfine := rfl
@[simp] theorem placeWord_tfineValid (w : Word) (s : State) : (placeWord w s).tfineValid = s.tfineValid := rfl
@[simp] theorem placeWord_tfineSent (w : Word) (s : State) : (placeWord w s).tfineSent = s.tfineSent := rfl
@[simp] theorem placeWord_cfg (w : Word) (s : State) : (placeWord w s).cfg = s.cfg := rfl
@[simp] theorem placeWord_cfgValid (w : Word) (s : State) : (placeWord w s).cfgValid = s.cfgValid := rfl
@[simp] theorem placeWord_resp (w : Word) (s : State) : (placeWord w s).resp = s.resp := rfl
@[simp] theorem placeWord_respValid (w : Word) (s : State) : (placeWord w s).respValid = s.respValid := rfl
@[simp] theorem placeWord_polls (w : Word) (s : State) : (placeWord w s).polls = s.polls := rfl
@[simp] theorem placeWord_tmp (w : Word) (s : State) : (placeWord w s).tmp = s.tmp := rfl
@[simp] theorem placeWord_calPollLimit (w : Word) (s : State) : (placeWord w s).calPollLimit = s.calPollLimit := rfl
@[simp] theorem placeWord_hostQueue (w : Word) (s : State) : (placeWord w s).hostQueue = w :: s.hostQueue := rfl
@[simp] theorem placeWord_busQueue (w : Word) (s : State) : (placeWord w s).busQueue = dropMoves s.busQueue := rfl
@[simp] theorem placeWord_delayDone (w : Word) (s : State) : (placeWord w s).delayDone = s.delayDone := rfl
@[simp] theorem placeWord_resetReq (w : Word) (s : State) : (placeWord w s).resetReq = false := rfl
@[simp] theorem placeWord_events (w : Word) (s : State) : (placeWord w s).events = s.events := rfl
@[simp] theorem placeWord_dev (w : Word) (s : State) : (placeWord w s).dev = s.dev := rfl

end Sys2Proof.Machine
end

