-- ==== Sys2Proof/Laws/Ops.lean ====
section
/-! SUPPORT. One lemma for each shared operation that says once everything it can do; proofs cite these and do
not unfold the operations. -/

namespace Sys2Proof.Machine

/-! ### The bus port and the delay port -/

/-- Everything `memRead` can do (R70, R76, R291). -/
theorem memRead_cases (addr : Byte) (n : Nat) (s : State) :
    (BusItem.silent s.busQueue = true ∧ memRead addr n s = .waiting) ∨
    (∃ a rest, s.busQueue = .answer a :: rest ∧
      ((a.bytes s.dev addr = none ∧
          memRead addr n s = .nack (logEvent (.read addr n none) { s with busQueue := rest })) ∨
       (∃ b0 b1 b2, a.bytes s.dev addr = some (b0, b1, b2) ∧
          memRead addr n s = .ack b0 b1 b2
            (logEvent (.read addr n (some (firstBytes n b0 b1 b2))) { s with busQueue := rest })))) := by
  unfold memRead
  cases hq : s.busQueue with
  | nil => exact .inl ⟨rfl, rfl⟩
  | cons x rest =>
    cases x with
    | move m => exact .inl ⟨rfl, rfl⟩
    | answer a =>
      refine .inr ⟨a, rest, rfl, ?_⟩
      cases a with
      | nack => exact .inl ⟨rfl, rfl⟩
      | ack b0 b1 b2 => exact .inr ⟨b0, b1, b2, rfl, rfl⟩
      | device k => exact .inr ⟨_, _, _, rfl, rfl⟩

/-- `memRead` when the port has nothing for the block (R291). -/
theorem memRead_silent {addr : Byte} {n : Nat} {s : State} (h : BusItem.silent s.busQueue = true) :
    memRead addr n s = .waiting := by
  obtain ⟨-, h'⟩ | ⟨a, rest, hq, -⟩ := memRead_cases addr n s
  · exact h'
  · rw [hq] at h; exact absurd h (by simp [BusItem.silent])

/-- `memRead` on a NACK (R70). -/
theorem memRead_nack {addr : Byte} {n : Nat} {s : State} {rest : List BusItem}
    (h : s.busQueue = .answer .nack :: rest) :
    memRead addr n s = .nack (logEvent (.read addr n none) { s with busQueue := rest }) := by
  simp only [memRead, h]

/-- `memRead` on an ACK, drawn or the device's (R70). -/
theorem memRead_ack {addr : Byte} {n : Nat} {s : State} {a : BusAnswer} {rest : List BusItem} {b0 b1 b2 : Byte}
    (h : s.busQueue = .answer a :: rest) (hb : a.bytes s.dev addr = some (b0, b1, b2)) :
    memRead addr n s =
      .ack b0 b1 b2 (logEvent (.read addr n (some (firstBytes n b0 b1 b2))) { s with busQueue := rest }) := by
  cases a with
  | nack => simp [BusAnswer.bytes] at hb
  | ack c0 c1 c2 =>
    simp only [BusAnswer.bytes, Option.some.injEq, Prod.mk.injEq] at hb
    obtain ⟨rfl, rfl, rfl⟩ := hb
    simp only [memRead, h]
  | device k =>
    simp only [BusAnswer.bytes, Option.some.injEq, Prod.mk.injEq] at hb
    obtain ⟨rfl, rfl, rfl⟩ := hb
    simp only [memRead, h]

/-- Everything `memWrite` can do (R71, R76, R291). -/
theorem memWrite_cases (addr v : Byte) (s : State) :
    (BusItem.silent s.busQueue = true ∧ memWrite addr v s = .waiting) ∨
    (∃ a rest, s.busQueue = .answer a :: rest ∧
      ((a.takes = none ∧
          memWrite addr v s = .nack (logEvent (.write addr v false) { s with busQueue := rest })) ∨
       (∃ k, a.takes = some k ∧
          memWrite addr v s = .done
            (logEvent (.write addr v true) { s with busQueue := rest, dev := s.dev.write k addr v })))) := by
  unfold memWrite
  cases hq : s.busQueue with
  | nil => exact .inl ⟨rfl, rfl⟩
  | cons x rest =>
    cases x with
    | move m => exact .inl ⟨rfl, rfl⟩
    | answer a =>
      refine .inr ⟨a, rest, rfl, ?_⟩
      cases a with
      | nack => exact .inl ⟨rfl, rfl⟩
      | ack b0 b1 b2 => exact .inr ⟨true, rfl, rfl⟩
      | device k => exact .inr ⟨k, rfl, rfl⟩

/-- `memWrite` when the port has nothing for the block (R291). -/
theorem memWrite_silent {addr v : Byte} {s : State} (h : BusItem.silent s.busQueue = true) :
    memWrite addr v s = .waiting := by
  obtain ⟨-, h'⟩ | ⟨a, rest, hq, -⟩ := memWrite_cases addr v s
  · exact h'
  · rw [hq] at h; exact absurd h (by simp [BusItem.silent])

/-- `memWrite` on a NACK (R71). -/
theorem memWrite_nack {addr v : Byte} {s : State} {rest : List BusItem} (h : s.busQueue = .answer .nack :: rest) :
    memWrite addr v s = .nack (logEvent (.write addr v false) { s with busQueue := rest }) := by
  simp only [memWrite, h]

/-- `memWrite` on an ACK (R71). -/
theorem memWrite_ack {addr v : Byte} {s : State} {a : BusAnswer} {rest : List BusItem} {k : Bool}
    (h : s.busQueue = .answer a :: rest) (hk : a.takes = some k) :
    memWrite addr v s =
      .done (logEvent (.write addr v true) { s with busQueue := rest, dev := s.dev.write k addr v }) := by
  cases a with
  | nack => simp [BusAnswer.takes] at hk
  | ack c0 c1 c2 =>
    simp only [BusAnswer.takes, Option.some.injEq] at hk
    subst hk
    simp only [memWrite, h]
  | device j =>
    simp only [BusAnswer.takes, Option.some.injEq] at hk
    subst hk
    simp only [memWrite, h]

/-- Everything `delay` can do (R284, R291). -/
theorem delay_cases (d : DelayName) (s : State) :
    (s.delayDone = 0 ∧ delay d s = none) ∨
    (∃ k, s.delayDone = k + 1 ∧ delay d s = some (logEvent (.delay d) { s with delayDone := k })) := by
  unfold delay
  cases h : s.delayDone with
  | zero => exact .inl ⟨rfl, rfl⟩
  | succ k => exact .inr ⟨k, rfl, rfl⟩

/-! ### `ApplyConfig` and `RefreshT` -/

/-- Everything one write of `ApplyConfig` can do (R183, R185, R186). -/
theorem applyConfigWrite_cases (c : SamplingConfig) (w : CfgWrite) (s : State) :
    (BusItem.silent s.busQueue = true ∧ applyConfigWrite c w s = .waiting) ∨
    (∃ a rest, s.busQueue = .answer a :: rest ∧
      ((a.takes = none ∧
          applyConfigWrite c w s =
            .nack (logEvent (.write w.addr (w.image c) false) { s with busQueue := rest })) ∨
       (∃ k s', a.takes = some k ∧
          s' = logEvent (.write w.addr (w.image c) true)
            { s with busQueue := rest, dev := s.dev.write k w.addr (w.image c) } ∧
          ((w ≠ .ctrlMeas ∧ applyConfigWrite c w s = .done s') ∨
           (w = .ctrlMeas ∧ applyConfigWrite c w s = .done { s' with cfg := c, cfgValid := true }))))) := by
  unfold applyConfigWrite
  obtain ⟨hs, hm⟩ | ⟨a, rest, hq, ⟨ht, hm⟩ | ⟨k, ht, hm⟩⟩ := memWrite_cases w.addr (w.image c) s
  · exact .inl ⟨hs, by rw [hm]⟩
  · exact .inr ⟨a, rest, hq, .inl ⟨ht, by rw [hm]⟩⟩
  · refine .inr ⟨a, rest, hq, .inr ⟨k, _, ht, rfl, ?_⟩⟩
    rw [hm]
    cases w
    · exact .inl ⟨by decide, rfl⟩
    · exact .inl ⟨by decide, rfl⟩
    · exact .inr ⟨rfl, rfl⟩

/-- Everything `RefreshT` can do (R244, R248); `caller` is what the command does with its result. -/
theorem refreshT_cases (caller : S32 → Bool → State → State) (s : State) :
    (BusItem.silent s.busQueue = true ∧ refreshT caller s = .next s) ∨
    (∃ a rest, s.busQueue = .answer a :: rest ∧
      ((a.bytes s.dev Config.regTemp = none ∧
          refreshT caller s = .next (raise .transportError (zext 32 Config.regTemp)
            { logEvent (.read Config.regTemp 3 none) { s with busQueue := rest } with tfineValid := false })) ∨
       (∃ b0 b1 b2, a.bytes s.dev Config.regTemp = some (b0, b1, b2) ∧
          ((s.calValid = false ∧ refreshT caller s = .fault (.unwrittenRead .cal)) ∨
           (s.calValid = true ∧
            refreshT caller s = .next (caller (compT s.cal (adc20 (code24 b0 b1 b2))).1
              (isSentinel24 (code24 b0 b1 b2))
              { logEvent (.read Config.regTemp 3 (some [b0, b1, b2])) { s with busQueue := rest } with
                tfine := (compT s.cal (adc20 (code24 b0 b1 b2))).2, tfineValid := true,
                tfineSent := isSentinel24 (code24 b0 b1 b2) })))))) := by
  unfold refreshT
  obtain ⟨hs, hm⟩ | ⟨a, rest, hq, ⟨ht, hm⟩ | ⟨b0, b1, b2, ht, hm⟩⟩ := memRead_cases Config.regTemp 3 s
  · exact .inl ⟨hs, by rw [hm]⟩
  · exact .inr ⟨a, rest, hq, .inl ⟨ht, by rw [hm]⟩⟩
  · refine .inr ⟨a, rest, hq, .inr ⟨b0, b1, b2, ht, ?_⟩⟩
    rw [hm]
    cases hc : s.calValid
    · exact .inl ⟨rfl, by simp [readCal]⟩
    · exact .inr ⟨rfl, by simp [readCal, firstBytes]⟩

/-! ### The guarded reads -/

theorem readCal_valid {s : State} (h : s.calValid = true) : readCal s = some s.cal := by simp [readCal, h]
theorem readCal_invalid {s : State} (h : s.calValid = false) : readCal s = none := by simp [readCal, h]
theorem readTFine_valid {s : State} (h : s.tfineValid = true) : readTFine s = some s.tfine := by simp [readTFine, h]
theorem readTFine_invalid {s : State} (h : s.tfineValid = false) : readTFine s = none := by simp [readTFine, h]

/-! ### The step -/

/-- A requested block reset comes first (R300). -/
theorem step_reset {s : State} (h : s.resetReq = true) : step s = .next (blockReset s) := by
  simp [step, machineStep, h]

/-- A move of the device comes before the block. -/
theorem step_move {s : State} {m : DeviceMove} {rest : List BusItem} (h : s.resetReq = false)
    (hq : s.busQueue = .move m :: rest) : step s = .next (deviceMove m rest s) := by
  simp [step, machineStep, h, hq]

/-- Otherwise the step is the block's. -/
theorem step_block {s : State} (h : s.resetReq = false) (hq : ∀ m rest, s.busQueue ≠ .move m :: rest) :
    step s = blockStep s := by
  cases hb : s.busQueue with
  | nil => simp [step, machineStep, h, hb]
  | cons x rest =>
    cases x with
    | move m => exact absurd hb (hq m rest)
    | answer a => simp [step, machineStep, h, hb]

/-- Everything one step of the machine can be. -/
theorem step_cases (s : State) :
    (s.resetReq = true ∧ step s = .next (blockReset s)) ∨
    (∃ m rest, s.resetReq = false ∧ s.busQueue = .move m :: rest ∧ step s = .next (deviceMove m rest s)) ∨
    (s.resetReq = false ∧ s.busy = false ∧ s.hostQueue = [] ∧ step s = .next s) ∨
    (∃ w rest, s.resetReq = false ∧ s.busy = false ∧ s.hostQueue = w :: rest ∧ step s = acceptStep w rest s) ∨
    (s.resetReq = false ∧ s.busy = true ∧ step s = continueStep s) := by
  cases hr : s.resetReq
  · by_cases hm : ∃ m rest, s.busQueue = .move m :: rest
    · obtain ⟨m, rest, hq⟩ := hm
      exact .inr (.inl ⟨m, rest, rfl, hq, step_move hr hq⟩)
    · have hb := step_block hr (fun m rest hq => hm ⟨m, rest, hq⟩)
      cases hbusy : s.busy
      · cases hh : s.hostQueue with
        | nil => exact .inr (.inr (.inl ⟨rfl, rfl, rfl, by rw [hb]; simp [blockStep, hbusy, hh]⟩))
        | cons w rest =>
          exact .inr (.inr (.inr (.inl ⟨w, rest, rfl, rfl, rfl, by rw [hb]; simp [blockStep, hbusy, hh]⟩)))
      · exact .inr (.inr (.inr (.inr ⟨rfl, rfl, by rw [hb]; simp [blockStep, hbusy]⟩)))
  · exact .inl ⟨rfl, step_reset hr⟩

end Sys2Proof.Machine
end

