-- ==== Sys2Proof/Laws/PerInstr.lean ====
section
/-! SUPPORT. Families of facts about every command as syntax, one lemma per constructor of Instr. -/

namespace Sys2Proof.Laws.Opcode

/-- The opcode of a command (spec/30_encoding.md R101). -/
def opcodeOf : Instr → BitVec 4
  | .init => 1#4
  | .configure _ _ _ _ _ _ => 2#4
  | .readT => 3#4
  | .readP _ => 4#4
  | .readH _ => 5#4

/-- The encoder puts a command's opcode of R101 into bits 31:28 (R100). -/
def Statement (i : Instr) : Prop := opField (encode i) = opcodeOf i

theorem init : Statement .init := by unfold Statement; decide

theorem configure (md : BitVec 2) (ot opr oh flt sb : BitVec 3) :
    Statement (.configure md ot opr oh flt sb) := by
  show opField (encode (.configure md ot opr oh flt sb)) = 2#4
  apply BitVec.eq_of_getLsbD_eq
  intro k hk
  simp only [opField, encode, BitVec.getLsbD_extractLsb', BitVec.getLsbD_append]
  interval_cases k <;> simp

theorem readT : Statement .readT := by unfold Statement; decide

theorem readP (fresh : Bool) : Statement (.readP fresh) := by unfold Statement; cases fresh <;> decide

theorem readH (fresh : Bool) : Statement (.readH fresh) := by unfold Statement; cases fresh <;> decide

end Sys2Proof.Laws.Opcode
end

