-- ==== Sys2Proof/Laws/Transitions.lean ====
section
/-! SUPPORT. For each command, once, every next state a statement of it can lead to: a property of all these
states is a property of the next state. Proofs about a command cite these and do not unfold it. -/

namespace Sys2Proof.Machine

/-- What a statement of CONFIGURE that goes on can lead to (R180, R183, R185, R186). -/
theorem configure_next_elim (md ot opr oh flt sb) (s t : State) (he : exec (.configure md ot opr oh flt sb) s = .next t)
  (c : SamplingConfig) (hc : c = { mode := md, osrsT := ot, osrsP := opr, osrsH := oh, filter := flt, tSb := sb })
  (P : State → Prop)
  (waits : t = s → P t)
  (notReady : s.seq = .idle → s.life ≠ .ready → P (raise .notInitialized 0#32 s))
  (entry : s.seq = .idle → s.life = .ready → P { applyConfigEntry s with seq := .configure (.write .ctrlHum) })
  (nacked : ∀ w rest, s.seq = .configure (.write w) → P (raise .transportError (zext 32 w.addr) (logEvent (.write w.addr (w.image c) false) { s with busQueue := rest })))
  (written : ∀ w w' rest k, w.next = some w' → s.seq = .configure (.write w) → P { (logEvent (.write w.addr (w.image c) true) { s with busQueue := rest, dev := s.dev.write k w.addr (w.image c) }) with seq := .configure (.write w') })
  (lastWritten : ∀ rest k, s.seq = .configure (.write .ctrlMeas) → P { (logEvent (.write CfgWrite.ctrlMeas.addr (CfgWrite.ctrlMeas.image c) true) { s with busQueue := rest, dev := s.dev.write k CfgWrite.ctrlMeas.addr (CfgWrite.ctrlMeas.image c) }) with cfg := c, cfgValid := true, seq := .configure .respond })
  (responds : s.seq = .configure .respond → P (respondOk 0#32 0#3 s)) : P t := by
  simp only [exec, execConfigure] at he
  rw [← hc] at he
  unfold configureStep at he
  split at he
  · next hs =>
    split at he <;> (simp only [Host.Outcome.next.injEq] at he; subst he)
    · exact notReady hs ‹_›
    · exact entry hs (by simp_all)
  · next w hs =>
    obtain ⟨hsil, hw⟩ | ⟨a, rest, hbq, ⟨hk, hw⟩ | ⟨k, s', hk, rfl, ⟨hw1, hw⟩ | ⟨hw1, hw⟩⟩⟩ := applyConfigWrite_cases c w s
    · rw [hw] at he; simp only [Host.Outcome.next.injEq] at he; exact waits he.symm
    · rw [hw] at he; (simp only [Host.Outcome.next.injEq] at he; subst he); exact nacked w rest hs
    · rw [hw] at he
      cases w <;> simp only [CfgWrite.next, Host.Outcome.next.injEq] at he
      · subst he; exact written .ctrlHum _ rest k rfl hs
      · subst he; exact written .config _ rest k rfl hs
      · exact absurd rfl hw1
    · rw [hw] at he; subst hw1
      simp only [CfgWrite.next, Host.Outcome.next.injEq] at he
      subst he; exact lastWritten rest k hs
  · (simp only [Host.Outcome.next.injEq] at he; subst he); exact responds ‹_›
  all_goals simp at he

/-- What `RefreshT` that goes on can lead to (R244, R248). -/
theorem refreshT_next_elim (caller : S32 → Bool → State → State) (s t : State) (he : refreshT caller s = .next t) (P : State → Prop)
  (waits : t = s → P t)
  (nacked : ∀ rest, P (raise .transportError (zext 32 Config.regTemp)
            { logEvent (.read Config.regTemp 3 none) { s with busQueue := rest } with tfineValid := false }))
  (converted : ∀ rest b0 b1 b2, s.calValid = true → P (caller (compT s.cal (adc20 (code24 b0 b1 b2))).1
              (isSentinel24 (code24 b0 b1 b2))
              { logEvent (.read Config.regTemp 3 (some [b0, b1, b2])) { s with busQueue := rest } with
                tfine := (compT s.cal (adc20 (code24 b0 b1 b2))).2, tfineValid := true,
                tfineSent := isSentinel24 (code24 b0 b1 b2) })) : P t := by
    obtain ⟨hh, hw⟩ | ⟨a, rest, hbq, ⟨hk, hw⟩ | ⟨b0, b1, b2, hk, ⟨hc, hw⟩ | ⟨hc, hw⟩⟩⟩ := refreshT_cases caller s
    all_goals rw [hw] at he
    · exact waits (by simpa using he.symm)
    · (simp only [Host.Outcome.next.injEq] at he; subst he); exact nacked _
    · simp at he
    · (simp only [Host.Outcome.next.injEq] at he; subst he); exact converted _ _ _ _ hc

/-- What the read and conversion of READ_P that goes on can lead to (R242). -/
theorem convertP_next_elim (s t : State) (he : convertP s = .next t) (P : State → Prop)
  (waits : t = s → P t)
  (nacked : ∀ rest, P (raise .transportError (zext 32 Config.regPress)
            (logEvent (.read Config.regPress 3 none) { s with busQueue := rest })))
  (converted : ∀ rest b0 b1 b2 v f, s.calValid = true → s.tfineValid = true → P (holdResult v f (.readP .respond) (logEvent (.read Config.regPress 3 (some [b0, b1, b2])) { s with busQueue := rest }))) : P t := by
    unfold convertP at he
    obtain ⟨hh, hw⟩ | ⟨a, rest, hbq, ⟨hk, hw⟩ | ⟨b0, b1, b2, hk, hw⟩⟩ := memRead_cases Config.regPress 3 s
    all_goals rw [hw] at he
    · exact waits (by simpa using he.symm)
    · (simp only [Host.Outcome.next.injEq] at he; subst he); exact nacked _
    · simp only [readCal, readTFine, logEvent] at he
      split at he <;> try simp at he
      subst he
      have c1 : s.calValid = true := by grind
      have c2 : s.tfineValid = true := by grind
      exact converted rest b0 b1 b2 _ _ c1 c2

/-- What the read and conversion of READ_H that goes on can lead to (R243). -/
theorem convertH_next_elim (s t : State) (he : convertH s = .next t) (P : State → Prop)
  (waits : t = s → P t)
  (nacked : ∀ rest, P (raise .transportError (zext 32 Config.regHum)
            (logEvent (.read Config.regHum 2 none) { s with busQueue := rest })))
  (converted : ∀ rest b0 b1 v f, s.calValid = true → s.tfineValid = true → P (holdResult v f (.readH .respond) (logEvent (.read Config.regHum 2 (some [b0, b1])) { s with busQueue := rest }))) : P t := by
    unfold convertH at he
    obtain ⟨hh, hw⟩ | ⟨a, rest, hbq, ⟨hk, hw⟩ | ⟨b0, b1, b2, hk, hw⟩⟩ := memRead_cases Config.regHum 2 s
    all_goals rw [hw] at he
    · exact waits (by simpa using he.symm)
    · (simp only [Host.Outcome.next.injEq] at he; subst he); exact nacked _
    · simp only [readCal, readTFine, logEvent] at he
      split at he <;> try simp at he
      subst he
      have c1 : s.calValid = true := by grind
      have c2 : s.tfineValid = true := by grind
      exact converted rest b0 b1 _ _ c1 c2

/-- What a statement of READ_T that goes on can lead to (R241). -/
theorem readT_next_elim (s t : State) (he : exec .readT s = .next t) (P : State → Prop)
  (waits : t = s → P t)
  (notReady : s.seq = .idle → s.life ≠ .ready → P (raise .notInitialized 0#32 s))
  (entry : s.seq = .idle → s.life = .ready → P { s with seq := .readT .temp })
  (nacked : ∀ rest, s.seq = .readT .temp → P (raise .transportError (zext 32 Config.regTemp)
            { logEvent (.read Config.regTemp 3 none) { s with busQueue := rest } with tfineValid := false }))
  (converted : ∀ rest b0 b1 b2 v f tf se, s.seq = .readT .temp → s.calValid = true → P (holdResult v f (.readT .respond)
              { logEvent (.read Config.regTemp 3 (some [b0, b1, b2])) { s with busQueue := rest } with
                tfine := tf, tfineValid := true, tfineSent := se }))
  (responds : s.seq = .readT .respond → P (respondOk s.tmp.value s.tmp.flags s)) : P t := by
  simp only [exec] at he
  unfold execReadT at he
  split at he
  · split at he <;> (simp only [Host.Outcome.next.injEq] at he; subst he)
    · exact notReady ‹_› ‹_›
    · exact entry ‹_› (by simp_all)
  · next hs => exact refreshT_next_elim _ s t he P waits (fun r => nacked r hs) (fun r b0 b1 b2 hc => converted r b0 b1 b2 _ _ _ _ hs hc)
  · (simp only [Host.Outcome.next.injEq] at he; subst he); exact responds ‹_›
  all_goals simp at he

/-- What a statement of READ_P that goes on can lead to (R242, R245). -/
theorem readP_next_elim (f) (s t : State) (he : exec (.readP f) s = .next t) (P : State → Prop)
  (waits : t = s → P t)
  (notReady : s.seq = .idle → s.life ≠ .ready → P (raise .notInitialized 0#32 s))
  (stale : s.seq = .idle → s.life = .ready → s.tfineValid = false → P (raise .staleFineTemperature 0#32 s))
  (entryFresh : s.seq = .idle → s.life = .ready → f = true → P { s with seq := .readP .temp })
  (entry : s.seq = .idle → s.life = .ready → f = false → s.tfineValid = true → P { s with seq := .readP .press })
  (nackedT : ∀ rest, s.seq = .readP .temp → P (raise .transportError (zext 32 Config.regTemp)
            { logEvent (.read Config.regTemp 3 none) { s with busQueue := rest } with tfineValid := false }))
  (convertedT : ∀ rest b0 b1 b2 tf se, s.seq = .readP .temp → s.calValid = true → P 
              { logEvent (.read Config.regTemp 3 (some [b0, b1, b2])) { s with busQueue := rest } with
                tfine := tf, tfineValid := true, tfineSent := se, seq := .readP .press })
  (nacked : ∀ rest, s.seq = .readP .press → P (raise .transportError (zext 32 Config.regPress)
            (logEvent (.read Config.regPress 3 none) { s with busQueue := rest })))
  (converted : ∀ rest b0 b1 b2 v f, s.seq = .readP .press → s.calValid = true → s.tfineValid = true → P (holdResult v f (.readP .respond) (logEvent (.read Config.regPress 3 (some [b0, b1, b2])) { s with busQueue := rest })))
  (responds : s.seq = .readP .respond → P (respondOk s.tmp.value s.tmp.flags s)) : P t := by
  simp only [exec] at he
  unfold execReadP at he
  split at he
  · unfold readoutEntry at he
    split at he
    · (simp only [Host.Outcome.next.injEq] at he; subst he); exact notReady ‹_› ‹_›
    split at he
    · (simp only [Host.Outcome.next.injEq] at he; subst he); exact entryFresh ‹_› (by simp_all) ‹_›
    split at he
    · (simp only [Host.Outcome.next.injEq] at he; subst he); exact stale ‹_› (by simp_all) ‹_›
    · (simp only [Host.Outcome.next.injEq] at he; subst he); exact entry ‹_› (by simp_all) (by simp_all) (by simp_all)
  · next hs => exact refreshT_next_elim _ s t he P waits (fun r => nackedT r hs) (fun r b0 b1 b2 hc => convertedT r b0 b1 b2 _ _ hs hc)
  · next hs => exact convertP_next_elim s t he P waits (fun r => nacked r hs) (fun r b0 b1 b2 v f hc ht => converted r b0 b1 b2 v f hs hc ht)
  · (simp only [Host.Outcome.next.injEq] at he; subst he); exact responds ‹_›
  all_goals simp at he

/-- What a statement of READ_H that goes on can lead to (R243, R245). -/
theorem readH_next_elim (f) (s t : State) (he : exec (.readH f) s = .next t) (P : State → Prop)
  (waits : t = s → P t)
  (notReady : s.seq = .idle → s.life ≠ .ready → P (raise .notInitialized 0#32 s))
  (stale : s.seq = .idle → s.life = .ready → s.tfineValid = false → P (raise .staleFineTemperature 0#32 s))
  (entryFresh : s.seq = .idle → s.life = .ready → f = true → P { s with seq := .readH .temp })
  (entry : s.seq = .idle → s.life = .ready → f = false → s.tfineValid = true → P { s with seq := .readH .hum })
  (nackedT : ∀ rest, s.seq = .readH .temp → P (raise .transportError (zext 32 Config.regTemp)
            { logEvent (.read Config.regTemp 3 none) { s with busQueue := rest } with tfineValid := false }))
  (convertedT : ∀ rest b0 b1 b2 tf se, s.seq = .readH .temp → s.calValid = true → P 
              { logEvent (.read Config.regTemp 3 (some [b0, b1, b2])) { s with busQueue := rest } with
                tfine := tf, tfineValid := true, tfineSent := se, seq := .readH .hum })
  (nacked : ∀ rest, s.seq = .readH .hum → P (raise .transportError (zext 32 Config.regHum)
            (logEvent (.read Config.regHum 2 none) { s with busQueue := rest })))
  (converted : ∀ rest b0 b1 v f, s.seq = .readH .hum → s.calValid = true → s.tfineValid = true → P (holdResult v f (.readH .respond) (logEvent (.read Config.regHum 2 (some [b0, b1])) { s with busQueue := rest })))
  (responds : s.seq = .readH .respond → P (respondOk s.tmp.value s.tmp.flags s)) : P t := by
  simp only [exec] at he
  unfold execReadH at he
  split at he
  · unfold readoutEntry at he
    split at he
    · (simp only [Host.Outcome.next.injEq] at he; subst he); exact notReady ‹_› ‹_›
    split at he
    · (simp only [Host.Outcome.next.injEq] at he; subst he); exact entryFresh ‹_› (by simp_all) ‹_›
    split at he
    · (simp only [Host.Outcome.next.injEq] at he; subst he); exact stale ‹_› (by simp_all) ‹_›
    · (simp only [Host.Outcome.next.injEq] at he; subst he); exact entry ‹_› (by simp_all) (by simp_all) (by simp_all)
  · next hs => exact refreshT_next_elim _ s t he P waits (fun r => nackedT r hs) (fun r b0 b1 b2 hc => convertedT r b0 b1 b2 _ _ hs hc)
  · next hs => exact convertH_next_elim s t he P waits (fun r => nacked r hs) (fun r b0 b1 v f hc ht => converted r b0 b1 v f hs hc ht)
  · (simp only [Host.Outcome.next.injEq] at he; subst he); exact responds ‹_›
  all_goals simp at he

/-- Row 20 is the last (R145). -/
theorem calRow_next_none (r : CalRow) (h : r.next = none) : r = .h6 := by cases r <;> first | rfl | cases h

/-- What a statement of INIT that goes on can lead to (R140 to R149). -/
theorem init_next_elim (s t : State) (he : exec .init s = .next t) (P : State → Prop)
  (waits : t = s → P t)
  (rejected : s.seq = .idle → s.life = .ready → P (raise .alreadyInitialized 0#32 s))
  (entry : s.seq = .idle → s.life ≠ .ready → P { s with calValid := false, tfineValid := false, tfineSent := false, cfgValid := false, seq := .init .checkId })
  (readNacked : ∀ p addr n rest, s.seq = .init p → ((p = .checkId ∧ addr = Config.regId ∧ n = 1) ∨ (p = .poll ∧ addr = Config.regStatus ∧ n = 1) ∨ ∃ r, p = .loadCal r ∧ addr = r.addr ∧ n = r.len) →
     P (initNack addr (logEvent (.read addr n none) { s with busQueue := rest })))
  (writeNacked : ∀ p addr v rest, s.seq = .init p → ((p = .reset ∧ addr = Config.regReset ∧ v = Config.resetCode) ∨ ∃ w, p = .applyDefault w ∧ addr = w.addr ∧ v = w.image Config.defaultConfig) →
     P (initNack addr (logEvent (.write addr v false) { s with busQueue := rest })))
  (wrongDevice : ∀ rest id, s.seq = .init .checkId → id ≠ Config.chipId → P (initFail .wrongDevice (zext 32 id) (logEvent (.read Config.regId 1 (some [id])) { s with busQueue := rest })))
  (idRight : ∀ rest, s.seq = .init .checkId → P { logEvent (.read Config.regId 1 (some [Config.chipId])) { s with busQueue := rest } with seq := .init .reset })
  (resetWritten : ∀ rest k, s.seq = .init .reset → P { logEvent (.write Config.regReset Config.resetCode true) { s with busQueue := rest, dev := s.dev.write k Config.regReset Config.resetCode } with seq := .init .resetSettle })
  (resetSettled : ∀ k, s.seq = .init .resetSettle → P { logEvent (.delay .tResetSettle) { s with delayDone := k } with polls := 0, seq := .init .poll })
  (pollClear : ∀ rest st, s.seq = .init .poll → st.getLsbD 0 = false → P { logEvent (.read Config.regStatus 1 (some [st])) { s with busQueue := rest } with seq := .init (.loadCal .t1) })
  (pollTimeout : ∀ rest st, s.seq = .init .poll → st.getLsbD 0 = true → s.polls + 1 = s.calPollLimit → P (initFail .calibrationTimeout (BitVec.ofNat 32 (s.polls+1)) { logEvent (.read Config.regStatus 1 (some [st])) { s with busQueue := rest } with polls := s.polls + 1 }))
  (pollBusy : ∀ rest st, s.seq = .init .poll → st.getLsbD 0 = true → s.polls + 1 ≠ s.calPollLimit → P { logEvent (.read Config.regStatus 1 (some [st])) { s with busQueue := rest } with polls := s.polls + 1, seq := .init .pollWait })
  (pollWaited : ∀ k, s.seq = .init .pollWait → P { logEvent (.delay .tPollInterval) { s with delayDone := k } with seq := .init .poll })
  (rowLoaded : ∀ r r' rest b0 b1 b2, s.seq = .init (.loadCal r) → r.next = some r' → P { logEvent (.read r.addr r.len (some (firstBytes r.len b0 b1 b2))) { s with busQueue := rest } with cal := r.load s.cal s.tmp b0 b1, tmp := r.keep s.tmp b0, seq := .init (.loadCal r') })
  (lastRowLoaded : ∀ rest b0 b1 b2, s.seq = .init (.loadCal .h6) → P { logEvent (.read CalRow.h6.addr CalRow.h6.len (some (firstBytes CalRow.h6.len b0 b1 b2))) { s with busQueue := rest } with cal := CalRow.h6.load s.cal s.tmp b0 b1, tmp := CalRow.h6.keep s.tmp b0, calValid := true, tfineValid := false, cfgValid := false, seq := .init (.applyDefault .ctrlHum) })
  (defaultWritten : ∀ w w' rest k, w.next = some w' → s.seq = .init (.applyDefault w) → P { (logEvent (.write w.addr (w.image Config.defaultConfig) true) { s with busQueue := rest, dev := s.dev.write k w.addr (w.image Config.defaultConfig) }) with seq := .init (.applyDefault w') })
  (lastDefaultWritten : ∀ rest k, s.seq = .init (.applyDefault .ctrlMeas) → P { (logEvent (.write CfgWrite.ctrlMeas.addr (CfgWrite.ctrlMeas.image Config.defaultConfig) true) { s with busQueue := rest, dev := s.dev.write k CfgWrite.ctrlMeas.addr (CfgWrite.ctrlMeas.image Config.defaultConfig) }) with cfg := Config.defaultConfig, cfgValid := true, seq := .init .finalSettle })
  (settled : ∀ k, s.seq = .init .finalSettle → P { logEvent (.delay .tInitSettle) { s with delayDone := k } with life := .ready, failCode := 0#4, seq := .init .respond })
  (responds : s.seq = .init .respond → P (respondOk 0#32 0#3 s)) : P t := by
  simp only [exec] at he
  unfold execInit at he
  split at he
  · unfold initEntry at he
    split at he <;> (simp only [Host.Outcome.next.injEq] at he; subst he)
    · exact rejected ‹_› ‹_›
    · exact entry ‹_› ‹_›
  · next p hs =>
    cases p with
    | checkId =>
      simp only [initAt, initCheckId] at he
      obtain ⟨_, hw⟩ | ⟨a, rest, hbq, ⟨hk, hw⟩ | ⟨b0, b1, b2, hk, hw⟩⟩ := memRead_cases Config.regId 1 s
      all_goals rw [hw] at he
      · exact waits (by simpa using he.symm)
      · (simp only [Host.Outcome.next.injEq] at he; subst he); exact readNacked _ _ _ _ hs (by simp)
      · simp only at he
        split at he <;> (simp only [Host.Outcome.next.injEq] at he; subst he)
        · next h => subst h; exact idRight _ hs
        · exact wrongDevice _ _ hs ‹_›
    | reset =>
      simp only [initAt, initReset] at he
      obtain ⟨_, hw⟩ | ⟨a, rest, hbq, ⟨hk, hw⟩ | ⟨k, hk, hw⟩⟩ := memWrite_cases Config.regReset Config.resetCode s
      all_goals rw [hw] at he
      · exact waits (by simpa using he.symm)
      · (simp only [Host.Outcome.next.injEq] at he; subst he); exact writeNacked _ _ _ _ hs (by simp)
      · (simp only [Host.Outcome.next.injEq] at he; subst he); exact resetWritten _ _ hs
    | resetSettle =>
      simp only [initAt, initResetSettle] at he
      obtain ⟨_, hw⟩ | ⟨k, hk, hw⟩ := delay_cases .tResetSettle s
      all_goals rw [hw] at he
      · exact waits (by simpa using he.symm)
      · (simp only [Host.Outcome.next.injEq] at he; subst he); exact resetSettled _ hs
    | poll =>
      simp only [initAt, initPoll] at he
      obtain ⟨_, hw⟩ | ⟨a, rest, hbq, ⟨hk, hw⟩ | ⟨b0, b1, b2, hk, hw⟩⟩ := memRead_cases Config.regStatus 1 s
      all_goals rw [hw] at he
      · exact waits (by simpa using he.symm)
      · (simp only [Host.Outcome.next.injEq] at he; subst he); exact readNacked _ _ _ _ hs (by simp)
      · simp only [initBusy] at he
        split at he
        · split at he <;> (simp only [Host.Outcome.next.injEq] at he; subst he)
          · exact pollTimeout rest b0 hs ‹_› ‹_›
          · exact pollBusy rest b0 hs ‹_› ‹_›
        · (simp only [Host.Outcome.next.injEq] at he; subst he); exact pollClear rest b0 hs (by simp_all)
    | pollWait =>
      simp only [initAt, initPollWait] at he
      obtain ⟨_, hw⟩ | ⟨k, hk, hw⟩ := delay_cases .tPollInterval s
      all_goals rw [hw] at he
      · exact waits (by simpa using he.symm)
      · (simp only [Host.Outcome.next.injEq] at he; subst he); exact pollWaited _ hs
    | loadCal r =>
      simp only [initAt, initLoadCal] at he
      obtain ⟨_, hw⟩ | ⟨a, rest, hbq, ⟨hk, hw⟩ | ⟨b0, b1, b2, hk, hw⟩⟩ := memRead_cases r.addr r.len s
      all_goals rw [hw] at he
      · exact waits (by simpa using he.symm)
      · (simp only [Host.Outcome.next.injEq] at he; subst he); exact readNacked _ _ _ _ hs (by simp)
      · cases hn : r.next with
        | some r' => rw [hn] at he; (simp only [Host.Outcome.next.injEq] at he; subst he); exact rowLoaded r r' rest b0 b1 b2 hs hn
        | none =>
          rw [hn] at he; (simp only [Host.Outcome.next.injEq] at he; subst he)
          have : r = .h6 := calRow_next_none r hn
          subst this
          exact lastRowLoaded rest b0 b1 b2 hs
    | applyDefault w =>
      simp only [initAt, initApplyDefault] at he
      obtain ⟨hsil, hw⟩ | ⟨a, rest, hbq, ⟨hk, hw⟩ | ⟨k, s', hk, rfl, ⟨hw1, hw⟩ | ⟨hw1, hw⟩⟩⟩ := applyConfigWrite_cases Config.defaultConfig w s
      · rw [hw] at he; exact waits (by simpa using he.symm)
      · rw [hw] at he; (simp only [Host.Outcome.next.injEq] at he; subst he); exact writeNacked _ _ _ _ hs (by simp)
      · rw [hw] at he
        cases w <;> simp only [CfgWrite.next, Host.Outcome.next.injEq] at he
        · subst he; exact defaultWritten .ctrlHum _ rest k rfl hs
        · subst he; exact defaultWritten .config _ rest k rfl hs
        · exact absurd rfl hw1
      · rw [hw] at he; subst hw1
        simp only [CfgWrite.next, Host.Outcome.next.injEq] at he
        subst he; exact lastDefaultWritten rest k hs
    | finalSettle =>
      simp only [initAt, initFinalSettle] at he
      obtain ⟨_, hw⟩ | ⟨k, hk, hw⟩ := delay_cases .tInitSettle s
      all_goals rw [hw] at he
      · exact waits (by simpa using he.symm)
      · (simp only [Host.Outcome.next.injEq] at he; subst he); exact settled _ hs
    | respond =>
      simp only [initAt] at he; (simp only [Host.Outcome.next.injEq] at he; subst he); exact responds hs
  all_goals simp at he

/-! ### The device -/

/-- Everything a statement of a command can do to the device: nothing, or one acknowledged write that is its event.
No command writes in the statement that accepts it. -/
theorem exec_device_cases {i : Instr} {s t : State} (he : exec i s = .next t) :
    t.dev = s.dev ∨ ∃ k a v, s.seq ≠ .idle ∧ t.dev = s.dev.write k a v ∧ t.events = s.events ++ [.write a v true] := by
  cases i with
  | init =>
    apply init_next_elim s t he
    case waits => rintro rfl; exact .inl rfl
    case resetWritten => intro rest k hs; exact .inr ⟨k, _, _, by simp [hs], rfl, rfl⟩
    case defaultWritten => intro w w' rest k _ hs; exact .inr ⟨k, _, _, by simp [hs], rfl, rfl⟩
    case lastDefaultWritten => intro rest k hs; exact .inr ⟨k, _, _, by simp [hs], rfl, rfl⟩
    all_goals (intros; exact .inl rfl)
  | configure md ot opr oh flt sb =>
    apply configure_next_elim _ _ _ _ _ _ s t he _ rfl
    case waits => rintro rfl; exact .inl rfl
    case written => intro w w' rest k _ hs; exact .inr ⟨k, _, _, by simp [hs], rfl, rfl⟩
    case lastWritten => intro rest k hs; exact .inr ⟨k, _, _, by simp [hs], rfl, rfl⟩
    all_goals (intros; exact .inl rfl)
  | readT =>
    apply readT_next_elim s t he
    case waits => rintro rfl; exact .inl rfl
    all_goals (intros; exact .inl rfl)
  | readP f =>
    apply readP_next_elim f s t he
    case waits => rintro rfl; exact .inl rfl
    all_goals (intros; exact .inl rfl)
  | readH f =>
    apply readH_next_elim f s t he
    case waits => rintro rfl; exact .inl rfl
    all_goals (intros; exact .inl rfl)

/-- Everything a step can do to the device: nothing, the move at the head of the bus queue, or one write that is the step's event. -/
theorem step_device_cases {s t : State} (he : step s = .next t) :
    t.dev = s.dev ∨ (∃ m rest, s.busQueue = .move m :: rest ∧ t.dev = s.dev.move m) ∨
    ∃ k a v, t.dev = s.dev.write k a v ∧ t.events = s.events ++ [.write a v true] := by
  obtain ⟨-, h⟩ | ⟨m, rest, -, hq, h⟩ | ⟨-, -, -, h⟩ | ⟨w, rest, -, -, -, h⟩ | ⟨-, -, h⟩ := step_cases s
  · rw [h] at he; injection he with he; subst he; exact .inl rfl
  · rw [h] at he; injection he with he; subst he; exact .inr (.inl ⟨m, rest, hq, rfl⟩)
  · rw [h] at he; injection he with he; subst he; exact .inl rfl
  · rw [h] at he; unfold acceptStep at he
    split at he
    · injection he with he; subst he; exact .inl rfl
    · obtain hd | ⟨k, a, v, hs, -⟩ := exec_device_cases he
      · exact .inl hd
      · exact absurd rfl hs
  · rw [h] at he; unfold continueStep at he
    split at he
    · cases he
    · obtain hd | ⟨k, a, v, -, hw⟩ := exec_device_cases he
      · exact .inl hd
      · exact .inr (.inr ⟨k, a, v, hw⟩)

end Sys2Proof.Machine
end

