-- ==== Sys2Proof/Tests/Slice0.lean ====
section
/-! SUPPORT. Small tests, their expected values taken from the tables of spec/95_test_vectors.md, and for every
statement of Obligations.lean that has hypotheses a witness that meets them. -/

namespace Sys2Proof.Tests

open Sys2Proof Sys2Proof.Machine

/-! ### Well-formedness: each check refuses one ill-formed term (R104 to R107) -/

theorem test_wf_all_limits : (Instr.configure 3#2 5#3 5#3 5#3 4#3 7#3).wellFormed = true := by decide
theorem test_wf_mode : (Instr.configure 2#2 0#3 0#3 0#3 0#3 0#3).wellFormed = false := by decide
theorem test_wf_osrsT : (Instr.configure 0#2 6#3 0#3 0#3 0#3 0#3).wellFormed = false := by decide
theorem test_wf_osrsP : (Instr.configure 0#2 0#3 6#3 0#3 0#3 0#3).wellFormed = false := by decide
theorem test_wf_osrsH : (Instr.configure 0#2 0#3 0#3 7#3 0#3 0#3).wellFormed = false := by decide
theorem test_wf_filter : (Instr.configure 0#2 0#3 0#3 0#3 5#3 0#3).wellFormed = false := by decide

/-! ### Decoding: words written out bit by bit (spec/95_test_vectors.md 2.1) -/

theorem test_decode_init : decode 0b0001_0000000000000000000000000000#32 = .command .init := by decide
theorem test_decode_configure :
    decode 0b0010_00000000000_101_100_001_010_101_11#32 =
      .command (.configure Mode.normal Osrs.x2 Osrs.x16 Osrs.x1 Iir.f16 Standby.sb1000) := by decide
theorem test_decode_configure_forced :
    decode 0x2001D42D#32 = .command (.configure Mode.forced Osrs.x1 Osrs.x4 Osrs.x8 Iir.f4 Standby.sb20) := by
  decide
theorem test_decode_readT : decode 0b0011_0000000000000000000000000000#32 = .command .readT := by decide
theorem test_decode_readP : decode 0b0100_1_000000000000000000000000000#32 = .command (.readP true) := by decide
theorem test_decode_readH : decode 0b0101_0_000000000000000000000000000#32 = .command (.readH false) := by decide
theorem test_decode_illegal :
    [0x10000001#32, 0x20000002#32, 0x200000C1#32, 0x200000E1#32, 0x20000600#32, 0x20002800#32, 0x20020000#32,
     0x2001FFFF#32, 0x38000000#32, 0x48000001#32, 0x00000000#32, 0x60000000#32, 0xF0000000#32].all
      (fun w => (decode w).toOption == none) = true := by decide
theorem test_decodeTableWord :
    decodeTableWord 32 0x48000000 = some (.readP true) ∧ decodeTableWord 32 0x00000000 = none := by decide

/-! ### Operand assembly (2.2) -/

theorem test_adc20 : adc20 (code24 0x7E#8 0xED#8 0x0F#8) = 519888#32 := by decide
theorem test_adc16 : adc16 (code16 0x75#8 0x30#8) = 30000#32 := by decide
theorem test_le16 : le16 0x18#8 0xFC#8 = -1000#16 := by decide
theorem test_h4 : assembleH4 0x13#8 0x29#8 = 313#16 ∧ assembleH4 0xFF#8 0xF0#8 = -16#16 := by decide
theorem test_h5 : assembleH5 0x29#8 0x03#8 = 50#16 ∧ assembleH5 0xA5#8 0xFE#8 = -22#16 := by decide

/-! ### Compensation (2.3, 2.4) -/

theorem test_compT_floor : compT Cal.setA 440000#32 = (-2#32, -104#32) := by decide
theorem test_compT_wraps : compT { Cal.setA with t1 := 0#16 } 741456#32 = (-16970#32, -868841#32) := by decide
theorem test_compP : compP Cal.setA 415148#32 128422#32 = (25767233#32, false) := by decide
theorem test_compP_negative : compP Cal.setA 1048575#32 128422#32 = (4293269792#32, false) := by decide
theorem test_compP_div0 : compP { Cal.setA with p1 := 0#16 } 415148#32 128422#32 = (0#32, true) := by decide
theorem test_compH : compH Cal.setA 30000#32 128422#32 = 56317#32 := by decide
theorem test_compH_clamps : compH Cal.setA 0#32 128422#32 = 0#32 ∧ compH Cal.setA 40000#32 128422#32 = 102400#32 := by decide

/-! ### One step of each command -/

/-- The machine after reset, with a limit of 8 polls. -/
def base : State := { State.reset with calPollLimit := 8 }

/-- A READY machine with set A. -/
def ready : State :=
  { base with life := .ready, calValid := true, cal := Cal.setA, cfgValid := true, cfg := Config.defaultConfig }

/-- A READY machine with a valid fine temperature (vector T1). -/
def fresh : State := { ready with tfine := 128422#32, tfineValid := true }

/-- The machine executing the command of word `w` at position `q`, with `as` the answers to come. -/
def busyAt (s : State) (w : Word) (q : Seq) (as : List BusAnswer) : State :=
  { s with cmd := w, busy := true, seq := q, busQueue := as.map BusItem.answer }

/-- The outcome is a next state with property `p`. -/
def nextHas (o : Host.Outcome State Fault Refusal) (p : State → Bool) : Bool :=
  match o with
  | .next t => p t
  | .fault _ => false
  | .refused _ => false

/-- 2.6: a chip ID of 0x58. -/
theorem test_init_wrongDevice :
    nextHas (step (busyAt base 0x10000000#32 (.init .checkId) [.ack 0x58#8 0#8 0#8])) (fun t =>
      t.resp == { status := 1#4, value := 0x58#32, flags := 0#3 } && t.life == .failed && t.failCode == 1#4) =
      true := by decide

/-- 2.6: status 0x08 ends the poll at once, since bit 0 alone decides. -/
theorem test_init_poll :
    nextHas (step (busyAt base 0x10000000#32 (.init .poll) [.ack 0x08#8 0#8 0#8])) (fun t =>
      t.seq == .init (.loadCal .t1) && t.polls == 0) = true := by decide

/-- 2.5: the third write of the word 0x20016157. -/
theorem test_configure_write :
    nextHas (step (busyAt ready 0x20016157#32 (.configure (.write .ctrlMeas)) [.ack 0#8 0#8 0#8])) (fun t =>
      t.events == [.write 0xF4#8 0x57#8 true] && t.cfgValid && t.cfg.osrsT == 2#3) = true := by decide

/-- 2.5: the second write answered NACK. -/
theorem test_configure_nack :
    nextHas (step (busyAt { ready with cfgValid := false } 0x200005B7#32 (.configure (.write .config)) [.nack]))
      (fun t => t.resp == { status := 3#4, value := 0xF5#32, flags := 0#3 } && !t.cfgValid && t.life == .ready) =
      true := by decide

/-- 2.7: the temperature sentinel is compensated as any other code. -/
theorem test_readT_sentinel :
    nextHas (step (busyAt fresh 0x30000000#32 (.readT .temp) [.ack 0x80#8 0#8 0#8])) (fun t =>
      t.tfine == 135479#32 && t.tfineSent && t.tmp.value == 2646#32 && t.tmp.flags == 0b011#3) = true := by decide

/-- 2.7: a NACK on the temperature read. -/
theorem test_readT_nack :
    nextHas (step (busyAt fresh 0x30000000#32 (.readT .temp) [.nack])) (fun t =>
      t.resp == { status := 3#4, value := 0xFA#32, flags := 0#3 } && !t.tfineValid && t.tfine == 128422#32) =
      true := by decide

/-- 2.7: the pressure conversion with the sentinel of the temperature before it. -/
theorem test_readP :
    nextHas (step (busyAt { fresh with tfine := 135479#32, tfineSent := true } 0x40000000#32 (.readP .press)
      [.ack 0x65#8 0x5A#8 0xC0#8])) (fun t => t.tmp.value == 25821581#32 && t.tmp.flags == 0b010#3) = true := by
  decide

/-- 2.7: READ_P with no valid fine temperature. -/
theorem test_readP_stale :
    nextHas (step { ready with hostQueue := [0x40000000#32] }) (fun t =>
      t.resp == { status := 7#4, value := 0#32, flags := 0#3 } && !t.busy) = true := by decide

/-- 2.7: the humidity conversion of the sentinel. -/
theorem test_readH_sentinel :
    nextHas (step (busyAt fresh 0x50000000#32 (.readH .hum) [.ack 0x80#8 0#8 0#8])) (fun t =>
      t.tmp.value == 72045#32 && t.tmp.flags == 0b001#3) = true := by decide

/-- R243: the fresh bit sends READ_H to the temperature read first. -/
theorem test_readH_fresh :
    nextHas (step { fresh with hostQueue := [0x58000000#32] }) (fun t => t.seq == .readH .temp && t.busy) = true := by
  decide

/-- `withFetchWord` from reset: the next step runs the word (2.7, LIFE UNINIT). -/
theorem test_withFetchWord :
    nextHas (step (State.reset.withFetchWord 32 0x30000000)) (fun t => t.resp.status == 5#4 && t.respValid) = true := by
  decide

/-! ### The reference device -/

/-- R83, R84 and R66: after a soft reset, and after a write of Forced mode. -/
theorem test_device :
    (Device.powerOn.write true 0xE0#8 0xB6#8).read 0xF3#8 = 0x01#8 ∧
    (Device.powerOn.write true 0xF4#8 0x25#8).read 0xF3#8 = 0x08#8 ∧
    ((Device.powerOn.write true 0xF4#8 0x25#8).move (.conversionEnds 0x655AC0#24 0x7EED00#24 0x7530#16)).read 0xF4#8 =
      0x24#8 := by decide

/-- R87, R68: a conversion changes the three bytes of an enabled channel together and leaves a skipped one; in Sleep
there is none (R83). -/
theorem test_conversion :
    let d := (Device.powerOn.write true 0xF4#8 0x05#8).move (.conversionEnds 0x655AC0#24 0x7EED00#24 0x7530#16)
    (BusAnswer.device true).bytes d 0xF7#8 = some (0x65#8, 0x5A#8, 0xC0#8) ∧ d.read 0xFA#8 = 0x80#8 ∧
    Device.powerOn.move (.conversionEnds 0x655AC0#24 0x7EED00#24 0x7530#16) = Device.powerOn := by decide

/-- R118: the line of the word 0x20000125 (program 2), with a comment. -/
theorem test_assemble :
    assembleLine "CONFIGURE FORCED, X1, X1, X1, OFF, SB_0P5 ; once".toList =
      .command (.configure Mode.forced Osrs.x1 Osrs.x1 Osrs.x1 Iir.off Standby.sb0p5) := by decide

/-! ### Witnesses: for each statement with hypotheses, states and operands that meet them -/

/-- `s` with the answers `as` to come. -/
def withAnswers (s : State) (as : List BusAnswer) : State := { s with busQueue := as.map BusItem.answer }

/-- `base` and `ready` at a position. -/
def baseAt (q : Seq) (as : List BusAnswer) : State := withAnswers { base with seq := q, busy := true } as
def readyAt (q : Seq) (as : List BusAnswer) : State := withAnswers { ready with seq := q, busy := true } as

theorem noMove_nil (s : State) (h : s.busQueue = []) : ∀ m q, s.busQueue ≠ .move m :: q := by simp [h]

theorem witness_IllegalWordsAreRefused :
    ∃ s : State, s.busy = false ∧ s.resetReq = false ∧ (∀ m q, s.busQueue ≠ .move m :: q) ∧
      s.hostQueue = [0x38000000#32] ∧ decode 0x38000000#32 = .illegal .mustBeZero :=
  ⟨{ base with hostQueue := [0x38000000#32] }, rfl, rfl, noMove_nil _ rfl, rfl, by decide⟩

theorem witness_DecodeOfEncode : (Instr.configure 3#2 5#3 5#3 5#3 4#3 7#3).wellFormed = true := by decide

theorem witness_EncodeOfDecode :
    decode 0x2001F5B7#32 = .illegal .filter ∧
    decode 0x2001E5B7#32 = .command (.configure 3#2 5#3 5#3 5#3 4#3 7#3) := by decide

theorem witness_ConfigureWordHoldsImages :
    decode 0x2001E5B7#32 = .command (.configure 3#2 5#3 5#3 5#3 4#3 7#3) := by decide

theorem witness_AssembledLinesAreLegal : assembleLine "READ_P.FRESH ; all".toList = .command (.readP true) := by decide

theorem witness_TokensAssembleBack :
    ("NORMAL", 3#2) ∈ modeCodes ∧ ("X16", 5#3) ∈ osrsCodes ∧ ("F16", 4#3) ∈ filterCodes ∧
    ("SB_20", 7#3) ∈ standbyCodes ∧ isName modeCodes "normal".toList = false ∧ isName osrsCodes "X32".toList = false ∧
    isName filterCodes "F32".toList = false ∧ isName standbyCodes "SB_1".toList = false ∧
    (Instr.configure 0#2 0#3 0#3 0#3 0#3 0#3).wellFormed = true := by decide

theorem witness_OperatorsWrap : 0 < 32 ∧ 31 < 32 ∧ (-1#32 : S32) ≠ 0 := by decide

theorem witness_PressureFormula :
    Exact.divisor { Cal.setA with p1 := 0#16 } 128422 = 0 ∧ Exact.divisor Cal.setA 128422 ≠ 0 := by decide

theorem witness_HumidityFormula :
    Exact.preClamp Cal.setA 0 128422 = -486364973 ∧ Exact.preClamp Cal.setA 40000 128422 = 462027475 ∧
    Exact.preClamp Cal.setA 30000 128422 = 230678058 := by decide

theorem witness_ExecEmitsOneEvent :
    (∃ t, exec .readT (readyAt (.readT .temp) [.ack 0x7E#8 0xED#8 0#8]) = .next t ∧ t.seq = .readT .respond) ∧
    (∃ t, exec .readT (readyAt (.readT .temp) [.nack]) = .next t ∧ t.resp.status ≠ 0#4) :=
  ⟨⟨_, rfl, rfl⟩, ⟨_, rfl, by decide⟩⟩

theorem witness_SilentPortsHoldTheBlock :
    (seqFits (.readP true) (.readP .temp) = true ∧ (Seq.readP .temp).awaitsBus = true ∧
      BusItem.silent base.busQueue = true) ∧
    (seqFits .init (.init .pollWait) = true ∧ (Seq.init .pollWait).awaitsDelay = true ∧ base.delayDone = 0) := by
  decide

theorem witness_NotInitializedRefusal :
    Instr.readT ≠ .init ∧ base.seq = .idle ∧ base.life ≠ .ready := by decide

theorem witness_InitRunsUnlessReady :
    base.seq = .idle ∧ base.life ≠ .ready ∧ ready.seq = .idle ∧ ready.life = .ready := by decide

theorem witness_FreshnessRule :
    ready.seq = .idle ∧ ready.life = .ready ∧ ready.tfineValid = false ∧
    fresh.seq = .idle ∧ fresh.life = .ready ∧ fresh.tfineValid = true := by decide

theorem witness_StagesInOrder :
    ∃ s : State, s.busy = false ∧ s.resetReq = false ∧ (∀ m q, s.busQueue ≠ .move m :: q) ∧
      s.hostQueue = [0x40000000#32] ∧ s.life = .ready ∧ s.tfineValid = false ∧
      decode 0x40000000#32 = .command (.readP false) :=
  ⟨{ ready with hostQueue := [0x40000000#32] }, rfl, rfl, noMove_nil _ rfl, rfl, rfl, rfl, by decide⟩

theorem witness_InitChecksChipId :
    ∃ a b : BusAnswer, (baseAt (.init .checkId) [a]).busQueue = [.answer a] ∧
      a.bytes base.dev 0xD0#8 = some (0x60#8, 0#8, 0#8) ∧ b.bytes base.dev 0xD0#8 = some (0x61#8, 0#8, 0#8) :=
  ⟨.device true, .ack 0x61#8 0#8 0#8, rfl, by decide, rfl⟩

theorem witness_InitSoftResets :
    (baseAt (.init .reset) [.device true]).seq = .init .reset ∧ (BusAnswer.device true).takes = some true ∧
    ({ base with seq := .init .resetSettle, delayDone := 1 } : State).delayDone = 0 + 1 ∧
    ({ base with seq := .init .resetSettle } : State).delayDone = 0 := by decide

theorem witness_InitPollsBusyBit :
    (BusAnswer.ack 0x08#8 0#8 0#8).bytes base.dev 0xF3#8 = some (0x08#8, 0#8, 0#8) ∧
    (0x08#8 : Byte).getLsbD 0 = false ∧ (0x09#8 : Byte).getLsbD 0 = true ∧
    (baseAt (.init .poll) [.ack 0x09#8 0#8 0#8]).polls + 1 ≠ base.calPollLimit ∧
    ({ baseAt (.init .poll) [.ack 0x09#8 0#8 0#8] with polls := 7 } : State).polls + 1 = base.calPollLimit ∧
    ({ base with seq := .init .pollWait, delayDone := 1 } : State).delayDone = 0 + 1 := by decide

/-- A limit of 1 needs no delay; a limit of 3 needs two. -/
theorem witness_PollTimesOutAtLimit :
    (∃ s : State, s.seq = .init .poll ∧ s.polls = 0 ∧ s.calPollLimit = 0 + 1 ∧
      s.busQueue = [0x01#8].map drawn ++ [] ∧ s.delayDone = 0 + 0) ∧
    (∃ s : State, s.seq = .init .poll ∧ s.polls = 0 ∧ s.calPollLimit = 2 + 1 ∧
      s.busQueue = [0x01#8, 0xFF#8, 0x09#8].map drawn ++ [] ∧ s.delayDone = 2 + 0 ∧
      (∀ b ∈ [0x01#8, 0xFF#8, 0x09#8], b.getLsbD 0 = true)) :=
  ⟨⟨{ base with seq := .init .poll, calPollLimit := 1, busQueue := [0x01#8].map drawn ++ [] },
      rfl, rfl, rfl, rfl, rfl⟩,
   ⟨{ base with seq := .init .poll, calPollLimit := 3, delayDone := 2,
                busQueue := [0x01#8, 0xFF#8, 0x09#8].map drawn ++ [] },
      rfl, rfl, rfl, rfl, rfl, by decide⟩⟩

/-- The bytes of set A at the twenty reads (section 0). -/
def bytesA : CalRow → Byte × Byte × Byte
  | .t1 => (0x70#8, 0x6B#8, 0#8)
  | .t2 => (0x43#8, 0x67#8, 0#8)
  | .t3 => (0x18#8, 0xFC#8, 0#8)
  | .p1 => (0x7D#8, 0x8E#8, 0#8)
  | .p2 => (0x43#8, 0xD6#8, 0#8)
  | .p3 => (0xD0#8, 0x0B#8, 0#8)
  | .p4 => (0x27#8, 0x0B#8, 0#8)
  | .p5 => (0x8C#8, 0x00#8, 0#8)
  | .p6 => (0xF9#8, 0xFF#8, 0#8)
  | .p7 => (0x8C#8, 0x3C#8, 0#8)
  | .p8 => (0xF8#8, 0xC6#8, 0#8)
  | .p9 => (0x70#8, 0x17#8, 0#8)
  | .h1 => (0x4B#8, 0#8, 0#8)
  | .h2 => (0x6A#8, 0x01#8, 0#8)
  | .h3 => (0x00#8, 0#8, 0#8)
  | .e4 => (0x13#8, 0#8, 0#8)
  | .h4 => (0x29#8, 0#8, 0#8)
  | .e5b => (0x29#8, 0#8, 0#8)
  | .h5 => (0x03#8, 0#8, 0#8)
  | .h6 => (0x1E#8, 0#8, 0#8)

/-- Section 0: those bytes are set A. -/
theorem test_calOf : calOf bytesA = Cal.setA := by decide

theorem witness_InitLoadsCalibration :
    ∃ ans : CalRow → BusAnswer, (∀ x ∈ calTable, (ans x.1).bytes base.dev x.2.1 = some (bytesA x.1)) ∧
      ∃ s : State, s.seq = .init (.loadCal .t1) ∧ s.dev = base.dev ∧
        s.busQueue = calTable.map (fun x => .answer (ans x.1)) ++ [] :=
  ⟨fun r => .ack (bytesA r).1 (bytesA r).2.1 (bytesA r).2.2, by decide,
   { base with seq := .init (.loadCal .t1),
               busQueue := calTable.map (fun x => .answer (.ack (bytesA x.1).1 (bytesA x.1).2.1 (bytesA x.1).2.2)) ++ [] },
   rfl, rfl, rfl⟩

theorem witness_InitAppliesDefault :
    (baseAt (.init (.applyDefault .ctrlHum)) [.ack 0#8 0#8 0#8, .device false, .device true]).busQueue =
      [.answer (.ack 0#8 0#8 0#8), .answer (.device false), .answer (.device true)] ∧
    (BusAnswer.ack 0#8 0#8 0#8).takes = some true ∧ (BusAnswer.device false).takes = some false := by decide

theorem witness_InitSettlesAndResponds :
    ∃ s : State, s.seq = .init .finalSettle ∧ s.delayDone = 0 + 1 :=
  ⟨{ base with seq := .init .finalSettle, delayDone := 1 }, rfl, rfl⟩

theorem witness_InitErrorsFail :
    (∃ t, exec .init (baseAt (.init .checkId) [.ack 0x58#8 0#8 0#8]) = .next t ∧ t.seq = .idle ∧
      t.resp.status ≠ 0#4) ∧
    (initRequest (.applyDefault .ctrlMeas) = some (0xF4#8, .write 0xF4#8 0xB7#8 false) ∧
      initRequest (.loadCal .h6) = some (0xE7#8, .read 0xE7#8 1 none) ∧
      (baseAt (.init .checkId) [.nack]).busQueue = .answer .nack :: []) :=
  ⟨⟨_, rfl, rfl, by decide⟩, by decide⟩

theorem witness_InitTransitions :
    (∃ t, exec .init (baseAt (.init .poll) [.ack 0x01#8 0#8 0#8]) = .next t ∧ t.seq = .init .pollWait) ∧
    (∃ t, exec .init (baseAt (.init .respond) []) = .next t ∧ t.seq = .idle) :=
  ⟨⟨_, rfl, rfl⟩, ⟨_, rfl, rfl⟩⟩

/-- Programs 1 and 3: no busy status read, and two of them. -/
theorem witness_InitRunsToReady :
    (∃ s : State, s.seq = .idle ∧ s.life ≠ .ready ∧ ([] : List Byte).length < s.calPollLimit ∧
      s.busQueue = initAnswers [] 0x00#8 bytesA [] ∧ s.delayDone = 0 + 2 + 0) ∧
    (∃ s : State, s.seq = .idle ∧ s.life = .failed ∧ [0x09#8, 0x01#8].length < s.calPollLimit ∧
      (∀ b ∈ [0x09#8, 0x01#8], b.getLsbD 0 = true) ∧ (0x08#8 : Byte).getLsbD 0 = false ∧
      s.busQueue = initAnswers [0x09#8, 0x01#8] 0x08#8 bytesA [] ∧ s.delayDone = 2 + 2 + 0) :=
  ⟨⟨{ base with busQueue := initAnswers [] 0x00#8 bytesA [], delayDone := 2 },
      rfl, by decide, by decide, rfl, rfl⟩,
   ⟨{ base with life := .failed, busQueue := initAnswers [0x09#8, 0x01#8] 0x08#8 bytesA [], delayDone := 4 },
      rfl, rfl, by decide, by decide, by decide, rfl, rfl⟩⟩

/-- A READY machine meets the invariant. -/
theorem ready_inv : ready.Inv :=
  ⟨by decide, by decide, by decide, by decide, by decide, by decide, by decide, by decide⟩

theorem fresh_inv : fresh.Inv :=
  ⟨by decide, by decide, by decide, by decide, by decide, by decide, by decide, by decide⟩

/-- A machine in the middle of an INIT meets the invariant and the order of events. -/
def inInit : State :=
  { base with cmd := 0x10000000#32, busy := true, seq := .init .resetSettle, delayDone := 1,
              events := [.accept 0x10000000#32, .read 0xD0#8 1 (some [0x60#8]), .write 0xE0#8 0xB6#8 true] }

theorem inInit_inv : inInit.Inv :=
  ⟨by decide, by decide, by decide, by decide, by decide, by decide, by decide, by decide⟩

theorem inInit_ordered : inInit.Ordered := ⟨by decide, by decide, by decide⟩

theorem witness_CalibrationImmutable :
    ready.Inv ∧ ready.life = .ready ∧ ready.resetReq = false ∧ step ready = .next ready := ⟨ready_inv, rfl, rfl, rfl⟩

theorem witness_StepKeepsInv : inInit.Inv ∧ ∃ t, step inInit = .next t ∧ t.seq = .init .poll :=
  ⟨inInit_inv, _, rfl, rfl⟩

theorem witness_StepKeepsOrder : inInit.Inv ∧ inInit.Ordered ∧ ∃ t, step inInit = .next t ∧ t.seq = .init .poll :=
  ⟨inInit_inv, inInit_ordered, _, rfl, rfl⟩

theorem witness_NoRunFaults :
    [Seq.readT .temp, .readP .temp, .readH .temp, .readP .press, .readH .hum].all (fun q =>
      (baseAt q [.ack 0#8 0#8 0#8]).seq == q && !(baseAt q [.ack 0#8 0#8 0#8]).calValid &&
      (readyAt q [.ack 0#8 0#8 0#8]).calValid && !(readyAt q [.ack 0#8 0#8 0#8]).tfineValid &&
      (readyAt q [.ack 0#8 0#8 0#8]).busQueue == [.answer (.ack 0#8 0#8 0#8)]) = true ∧
    (BusAnswer.ack 0#8 0#8 0#8).bytes base.dev 0xFD#8 = some (0#8, 0#8, 0#8) ∧ fresh.Inv :=
  ⟨by decide, rfl, fresh_inv⟩

theorem witness_ConfigureWritesInOrder :
    ready.seq = .idle ∧ ready.life = .ready ∧
    (withAnswers ready [.device true, .ack 0#8 0#8 0#8, .device false]).busQueue =
      .answer (.device true) :: .answer (.ack 0#8 0#8 0#8) :: .answer (.device false) :: [] ∧
    (BusAnswer.device true).takes = some true ∧ (BusAnswer.device false).takes = some false := by decide

theorem witness_ConfigureNackStops :
    (readyAt (.configure (.write .ctrlHum)) [.nack]).busQueue = .answer .nack :: [] ∧
    (readyAt (.configure (.write .ctrlMeas)) [.nack]).seq = .configure (.write .ctrlMeas) := by decide

theorem witness_ConfigureIdempotent :
    ready.seq = .idle ∧ fresh.seq = .idle ∧ ready.life = .ready ∧ fresh.life = .ready ∧
    (∀ a ∈ [BusAnswer.device true, .device true, .device false, .ack 1#8 2#8 3#8, .device true, .device true],
      a ≠ .nack) := by decide

theorem witness_ConfigureFrame :
    (∃ t, exec (.configure 3#2 5#3 5#3 5#3 0#3 0#3)
      (readyAt (.configure (.write .ctrlHum)) [.ack 0#8 0#8 0#8]) = .next t ∧ t.dev ≠ ready.dev) ∧
    (∃ t, exec (.configure 3#2 5#3 5#3 5#3 4#3 7#3)
      (readyAt (.configure (.write .config)) [.ack 0#8 0#8 0#8]) = .next t ∧ t.dev ≠ ready.dev) ∧
    (∃ t, exec (.configure 1#2 5#3 5#3 5#3 0#3 0#3)
      (readyAt (.configure (.write .ctrlMeas)) [.ack 0#8 0#8 0#8]) = .next t ∧ t.dev ≠ ready.dev) :=
  ⟨⟨_, rfl, by decide⟩, ⟨_, rfl, by decide⟩, ⟨_, rfl, by decide⟩⟩

theorem witness_ReadTResult :
    ready.seq = .idle ∧ ready.life = .ready ∧ ready.calValid = true ∧
    (BusAnswer.ack 0x80#8 0#8 0#8).bytes ready.dev 0xFA#8 = some (0x80#8, 0#8, 0#8) := by decide

theorem witness_ReadPResult :
    fresh.seq = .idle ∧ fresh.life = .ready ∧ fresh.calValid = true ∧ fresh.tfineValid = true ∧
    (BusAnswer.device true).bytes fresh.dev 0xF7#8 = some (0x80#8, 0#8, 0#8) ∧
    (BusAnswer.ack 0x7E#8 0xED#8 0#8).bytes fresh.dev 0xFA#8 = some (0x7E#8, 0xED#8, 0#8) := by decide

theorem witness_ReadHResult :
    fresh.seq = .idle ∧ fresh.life = .ready ∧ fresh.calValid = true ∧ fresh.tfineValid = true ∧
    (BusAnswer.device true).bytes fresh.dev 0xFD#8 = some (0x80#8, 0#8, 0#8) ∧
    (BusAnswer.ack 0x7E#8 0xED#8 0#8).bytes fresh.dev 0xFA#8 = some (0x7E#8, 0xED#8, 0#8) := by decide

theorem witness_FailedReadsAndFineTemperature :
    [Seq.readT .temp, .readP .temp, .readH .temp, .readP .press, .readH .hum].all
      (fun q => (readyAt q [.nack]).seq == q && (readyAt q [.nack]).busQueue == [.answer .nack]) = true := by decide

theorem witness_SameFineTemperature :
    ∃ s t : State, s.resetReq = false ∧ step s = .next t ∧ t.tfine ≠ s.tfine :=
  ⟨busyAt ready 0x30000000#32 (.readT .temp) [.ack 0x7E#8 0xED#8 0#8], _, rfl, rfl, by decide⟩

theorem witness_ReadoutFrame :
    (∃ t, exec .readT (readyAt (.readT .temp) [.ack 0x7E#8 0xED#8 0#8]) = .next t ∧ t.tfineValid = true) ∧
    (∃ t, exec (.readP false) (readyAt (.readP .respond) []) = .next t ∧ t.seq = .idle) ∧
    (∃ t, exec (.readH true) ready = .next t ∧ t.seq = .readH .temp) :=
  ⟨⟨_, rfl, rfl⟩, ⟨_, rfl, rfl⟩, ⟨_, rfl, rfl⟩⟩

theorem witness_InitFrame :
    (∃ t, exec .init (baseAt (.init .reset) [.device true]) = .next t ∧ t.dev ≠ base.dev) ∧
    (∃ t, exec .init (baseAt (.init (.loadCal .t1)) [.ack 1#8 2#8 0#8]) = .next t ∧ t.cal ≠ base.cal) ∧
    (∃ t, exec .init (baseAt (.init (.applyDefault .ctrlMeas)) [.device true]) = .next t ∧ t.cfgValid = true) :=
  ⟨⟨_, rfl, by decide⟩, ⟨_, rfl, by decide⟩, ⟨_, rfl, rfl⟩⟩

theorem witness_StepRunsTheCommand :
    (∃ s : State, s.resetReq = false ∧ (∀ m q, s.busQueue ≠ .move m :: q) ∧ s.busy = false ∧
      s.hostQueue = 0x30000000#32 :: [] ∧ decode 0x30000000#32 = .command .readT) ∧
    (∃ s : State, s.resetReq = false ∧ (∀ m q, s.busQueue ≠ .move m :: q) ∧ s.busy = true ∧
      decode s.cmd = .command .init) :=
  ⟨⟨{ ready with hostQueue := [0x30000000#32] }, rfl, noMove_nil _ rfl, rfl, rfl, by decide⟩,
   ⟨inInit, rfl, noMove_nil _ rfl, rfl, by decide⟩⟩

theorem witness_HostPortHandshake :
    (∃ t, inInit.busy = true ∧ inInit.resetReq = false ∧ step inInit = .next t) ∧
    (∃ s : State, s.busy = false ∧ s.resetReq = false ∧ (∀ m q, s.busQueue ≠ .move m :: q) ∧
      s.hostQueue = 0x10000000#32 :: []) ∧
    (∃ t, inInit.controlOk = true ∧ inInit.Answered ∧ step inInit = .next t) :=
  ⟨⟨_, rfl, rfl, rfl⟩, ⟨{ base with hostQueue := [0x10000000#32] }, rfl, rfl, noMove_nil _ rfl, rfl⟩,
   ⟨_, by decide, rfl, rfl⟩⟩

theorem witness_BlockResetValues : ({ fresh with resetReq := true } : State).resetReq = true := rfl

theorem witness_OnlyInitChangesLife :
    (∃ s t : State, s.resetReq = false ∧ step s = .next t ∧ t.life ≠ s.life) ∧
    (∃ t, exec .readT base = .next t ∧ Instr.readT ≠ .init) :=
  ⟨⟨busyAt base 0x10000000#32 (.init .checkId) [.nack], _, rfl, rfl, by decide⟩, ⟨_, rfl, by decide⟩⟩

theorem witness_HumidityLatch :
    Memory.wf Device.powerOn.regs = true ∧ (0xF5#8 : Byte) ≠ 0xF2#8 ∧ (0xF5#8 : Byte) ≠ 0xF4#8 ∧
    ((0xE0#8 : Byte) = 0xE0#8 → (0xB5#8 : Byte) ≠ 0xB6#8) := by decide

theorem witness_SoftResetOfDevice :
    Memory.wf (Device.powerOn.write true 0xF4#8 0xB7#8).regs = true ∧ (0xB5#8 : Byte) ≠ 0xB6#8 := by decide

theorem witness_CalibrationBytesConstant :
    isCalibration 0x88#8 = true ∧ isCalibration 0x9F#8 = true ∧ isCalibration 0xA1#8 = true ∧
    isCalibration 0xE1#8 = true ∧ isCalibration 0xE7#8 = true ∧ isCalibration 0xA0#8 = false ∧
    ∃ t, step (busyAt base 0x10000000#32 (.init .reset) [.device true]) = .next t ∧ t.dev ≠ base.dev :=
  ⟨by decide, by decide, by decide, by decide, by decide, by decide, _, rfl, by decide⟩

theorem witness_CanonicalMemoriesAreEqual :
    Memory.wf [(0x88, 0x70#8), (0xF3, 0x01#8)] = true ∧ Memory.wf [(0x88, 0x70#8), (0xF3, 0x01#8)] = true := by decide

/-- A device that measures in Normal mode, pressure enabled, temperature and humidity Skip. -/
def measuringDevice : Device := (Device.powerOn.write true 0xF4#8 0x07#8).move .conversionStarts

theorem witness_NoMeasurementInSleep :
    (∃ t, step (busyAt ready 0x20000125#32 (.configure (.write .ctrlMeas)) [.device true]) = .next t ∧
      t.dev.mode = 1#2 ∧ t.dev.measuring = true) ∧
    ready.dev.mode = 0#2 ∧ ready.dev.measuring = false ∧ Memory.wf ready.dev.regs = true ∧
    (∃ t, step (busyAt { ready with dev := measuringDevice } 0x20000000#32 (.configure (.write .ctrlMeas))
      [.device true]) = .next t ∧ t.dev.mode = 0#2) :=
  ⟨⟨_, rfl, by decide, by decide⟩, by decide, by decide, by decide, ⟨_, rfl, by decide⟩⟩

/-- A device that measures in Normal mode with every channel enabled, the humidity by its two writes. -/
def allChannelsDevice : Device :=
  ((Device.powerOn.write true 0xF2#8 0x01#8).write true 0xF4#8 0x27#8).move .conversionStarts

theorem witness_BurstReads_temperature_humidity :
    Memory.wf allChannelsDevice.regs = true ∧ allChannelsDevice.mode ≠ 0#2 ∧ allChannelsDevice.measuring = true ∧
    allChannelsDevice.osrsP ≠ 0#3 ∧ allChannelsDevice.osrsT ≠ 0#3 ∧ allChannelsDevice.oshEff ≠ 0#3 ∧
    (let e := allChannelsDevice.move (.conversionEnds 0x123456#24 0x654321#24 0xFEDC#16)
     e.read 0xFA#8 = 0x65#8 ∧ e.read 0xFC#8 = 0x21#8 ∧ e.read 0xFD#8 = 0xFE#8 ∧ e.read 0xFE#8 = 0xDC#8) := by decide

theorem witness_BurstReadsGiveOneConversion :
    Memory.wf measuringDevice.regs = true ∧ measuringDevice.mode ≠ 0#2 ∧ measuringDevice.measuring = true ∧
    measuringDevice.osrsP ≠ 0#3 ∧ isData 0xF7 = true ∧ isData 0xFE = true ∧ isData 0xF6 = false ∧
    (∃ b0 b1 b2 t, memRead 0xF7#8 3 (withAnswers ready [.device true]) = .ack b0 b1 b2 t) :=
  ⟨by decide, by decide, by decide, by decide, by decide, by decide, by decide, ⟨_, _, _, _, rfl⟩⟩

/-- The clauses' premises: a skipped channel, the write that makes one Skip, and the write that enables it again
while its register keeps the reset value, with the conversion begun and ended. -/
theorem witness_SkippedChannelsReadTheirSentinel :
    isData 0xF7 = true ∧ isData 0xFE = true ∧
    Memory.wf measuringDevice.regs = true ∧ measuringDevice.skipped 0xFA = true ∧ measuringDevice.skipped 0xF7 = false ∧
    (measuringDevice.write true 0xF4#8 0x20#8).skipped 0xF9 = true ∧
    (let d := (measuringDevice.write true 0xF4#8 0x20#8).write true 0xF4#8 0x27#8
     d.skipped 0xF7 = false ∧ Memory.read d.regs 0xF7 = resetByte 0xF7 ∧
     ((d.move .conversionStarts).move (.conversionEnds 0x123456#24 0x654321#24 0x1234#16)).read 0xF7#8 = 0x12#8) := by
  decide

theorem witness_SkippedChannels_step :
    ∃ s t : State, Memory.wf s.dev.regs = true ∧ s.dev.skipped 0xF7 = true ∧ Memory.read s.dev.regs 0xF7 = resetByte 0xF7 ∧
      s.busQueue = [.move (.conversionEnds 0x123456#24 0x654321#24 0x1234#16)] ∧ step s = .next t :=
  ⟨{ State.reset with busQueue := [.move (.conversionEnds 0x123456#24 0x654321#24 0x1234#16)] }, _,
    by decide, by decide, by decide, rfl, rfl⟩

end Sys2Proof.Tests
end

section
/-! PROOF. The operators of spec/00_scope.md R10 on bit patterns are the integer operators followed by `wrapN`:
`wrapN` is the library's balanced remainder, in whose terms the library states what `BitVec` operations denote. -/

namespace Sys2Proof.Machine

/-- The word length and its sign bit, in the form the integer facts below need. -/
theorem two_pow_eq_two_mul_half {n : Nat} (hn : 0 < n) : (2 : Int) ^ n = 2 * 2 ^ (n - 1) := by
  rw [← pow_succ', Nat.sub_add_cancel hn]

/-- R10's `wrapN` is the remainder of `x` by `2^n` that lies in the signed `n`-bit range. -/
theorem wrapN_eq_bmod {n : Nat} (hn : 0 < n) (x : Int) : wrapN n x = x.bmod (2 ^ n) := by
  have hhalf := two_pow_eq_two_mul_half hn
  have hpos : (0 : Int) < 2 ^ n := by positivity
  have hlow := Int.emod_nonneg (x + 2 ^ (n - 1)) hpos.ne'
  have hhigh := Int.emod_lt_of_pos (x + 2 ^ (n - 1)) hpos
  have hrange : (wrapN n x).bmod (2 ^ n) = wrapN n x := by
    apply Int.bmod_eq_of_le_mul_two <;> push_cast <;> unfold wrapN <;> omega
  have hcongr := Int.emod_sub_bmod (y := 2 ^ (n - 1)) (x + 2 ^ (n - 1)) (2 ^ n)
  push_cast at hcongr
  rw [← hrange, wrapN, hcongr, add_sub_cancel_right]

theorem toInt_add_eq_exact {n : Nat} (hn : 0 < n) (a b : BitVec n) :
    (a + b).toInt = Exact.add n a.toInt b.toInt := by
  rw [BitVec.toInt_add, Exact.add, wrapN_eq_bmod hn]

theorem toInt_sub_eq_exact {n : Nat} (hn : 0 < n) (a b : BitVec n) :
    (a - b).toInt = Exact.sub n a.toInt b.toInt := by
  rw [BitVec.toInt_sub, Exact.sub, wrapN_eq_bmod hn]

theorem toInt_mul_eq_exact {n : Nat} (hn : 0 < n) (a b : BitVec n) :
    (a * b).toInt = Exact.mul n a.toInt b.toInt := by
  rw [BitVec.toInt_mul, Exact.mul, wrapN_eq_bmod hn]

/-- The shift moves the unsigned pattern; the wrap makes that the product with the signed value. -/
theorem toInt_shl_eq_exact {n : Nat} (hn : 0 < n) (a : BitVec n) (k : Nat) :
    (shl a k).toInt = Exact.shl n a.toInt k := by
  rw [shl, BitVec.toInt_shiftLeft, Exact.shl, wrapN_eq_bmod hn, BitVec.toInt_eq_toNat_bmod,
    Int.bmod_mul_bmod, Nat.shiftLeft_eq, Nat.cast_mul, Nat.cast_pow, Nat.cast_ofNat]

/-- No wrap is needed, and none is written in R10: the floor of an `n`-bit value is one. -/
theorem toInt_asr_eq_exact {n : Nat} (a : BitVec n) (k : Nat) :
    (asr a k).toInt = Exact.asr a.toInt k := by
  rw [asr, BitVec.toInt_sshiftRight, Exact.asr, Int.shiftRight_eq_div_pow,
    Int.fdiv_eq_ediv_of_nonneg _ (by positivity), Nat.cast_pow, Nat.cast_ofNat]

/-- The wrap acts on the one quotient out of range, that of the least value by -1. -/
theorem toInt_divTrunc_eq_exact {n : Nat} (hn : 0 < n) (a b : BitVec n) :
    (divTrunc a b).toInt = Exact.div n a.toInt b.toInt := by
  rw [divTrunc, BitVec.toInt_sdiv, Exact.div, wrapN_eq_bmod hn]

/-- Settles O11, operator by operator. -/
theorem operatorsWrap : Obligations.OperatorsWrap := by
  unfold Obligations.OperatorsWrap
  intro n a b k hn _
  exact ⟨toInt_add_eq_exact hn a b, toInt_sub_eq_exact hn a b, toInt_mul_eq_exact hn a b,
    toInt_shl_eq_exact hn a k, toInt_asr_eq_exact a k, fun _ => toInt_divTrunc_eq_exact hn a b⟩

end Sys2Proof.Machine
end

section
/-! PROOF. What one statement of a command adds to the record of the ports (spec/00_scope.md R6,
spec/10_state.md R21, spec/60_exceptions.md R279). -/

namespace Sys2Proof.Machine

/-! ### What a statement can emit -/

/-- `t`'s record is that of `s` with at most one bus or delay event after it. -/
def AtMostOnePortEvent (s t : State) : Prop :=
  t.events = s.events ∨ ∃ e, isPortEvent e = true ∧ t.events = s.events ++ [e]

/-- `t` is where a statement from `s` can end: a port event at most, or the response `r` after that, which is
`finish r`; an error's response has no flags. -/
def StatementEnd (s t : State) : Prop :=
  AtMostOnePortEvent s t ∨
    ∃ r u, t = finish r u ∧ AtMostOnePortEvent s u ∧ (r.status ≠ 0#4 → r.flags = 0#3)

theorem AtMostOnePortEvent.none {s t : State} (h : t.events = s.events) : AtMostOnePortEvent s t := .inl h

theorem AtMostOnePortEvent.one {s t : State} (e : Event) (he : isPortEvent e = true)
    (h : t.events = s.events ++ [e]) : AtMostOnePortEvent s t := .inr ⟨e, he, h⟩

theorem statementEnd_raise {s u : State} (h : AtMostOnePortEvent s u) (e : ErrorKind) (info : Word) :
    StatementEnd s (raise e info u) := .inr ⟨_, u, rfl, h, fun _ => rfl⟩

theorem statementEnd_respondOk (s : State) (value : Word) (flags : BitVec 3) :
    StatementEnd s (respondOk value flags s) := .inr ⟨_, s, rfl, .none rfl, fun h => absurd rfl h⟩

theorem statementEnd_initFail {s u : State} (h : AtMostOnePortEvent s u) (e : ErrorKind) (info : Word) :
    StatementEnd s (initFail e info u) := statementEnd_raise (u := initFailEffects e u) h e info

/-! ### What the record shows of it -/

/-- A port event is neither an acceptance nor a response. -/
theorem not_accept_response_of_port {e : Event} (h : isPortEvent e = true) :
    isAccept e = false ∧ isResponse e = false := by
  cases e with
  | accept w => cases h
  | read addr n answer => exact ⟨rfl, rfl⟩
  | write addr v ack => exact ⟨rfl, rfl⟩
  | delay d => exact ⟨rfl, rfl⟩
  | response r => cases h

theorem AtMostOnePortEvent.counts {s t : State} (h : AtMostOnePortEvent s t) :
    ∃ es, t.events = s.events ++ es ∧ es.countP isPortEvent ≤ 1 ∧ es.countP isAccept = 0 ∧
      es.countP isResponse = 0 := by
  obtain h | ⟨e, hport, h⟩ := h
  · exact ⟨[], by simpa using h, by simp, rfl, rfl⟩
  · obtain ⟨haccept, hresponse⟩ := not_accept_response_of_port hport
    exact ⟨[e], h, by simp [hport], by simp [haccept], by simp [hresponse]⟩

/-! ### Every statement ends so -/

theorem init_statementEnd {s t : State} (he : exec .init s = .next t) : StatementEnd s t := by
  apply init_next_elim s t he
  case waits => rintro rfl; exact .inl (.none rfl)
  case rejected => intros; exact statementEnd_raise (.none rfl) _ _
  case entry => intros; exact .inl (.none rfl)
  case readNacked => intros; exact statementEnd_initFail (.one _ rfl rfl) _ _
  case writeNacked => intros; exact statementEnd_initFail (.one _ rfl rfl) _ _
  case wrongDevice => intros; exact statementEnd_initFail (.one _ rfl rfl) _ _
  case pollTimeout => intros; exact statementEnd_initFail (.one _ rfl rfl) _ _
  case responds => intros; exact statementEnd_respondOk _ _ _
  all_goals (intros; exact .inl (.one _ rfl rfl))

theorem configure_statementEnd {md : BitVec 2} {ot opr oh flt sb : BitVec 3} {s t : State}
    (he : exec (.configure md ot opr oh flt sb) s = .next t) : StatementEnd s t := by
  apply configure_next_elim _ _ _ _ _ _ s t he _ rfl
  case waits => rintro rfl; exact .inl (.none rfl)
  case notReady => intros; exact statementEnd_raise (.none rfl) _ _
  case entry => intros; exact .inl (.none rfl)
  case nacked => intros; exact statementEnd_raise (.one _ rfl rfl) _ _
  case written => intros; exact .inl (.one _ rfl rfl)
  case lastWritten => intros; exact .inl (.one _ rfl rfl)
  case responds => intros; exact statementEnd_respondOk _ _ _

theorem readT_statementEnd {s t : State} (he : exec .readT s = .next t) : StatementEnd s t := by
  apply readT_next_elim s t he
  case waits => rintro rfl; exact .inl (.none rfl)
  case notReady => intros; exact statementEnd_raise (.none rfl) _ _
  case entry => intros; exact .inl (.none rfl)
  case nacked => intros; exact statementEnd_raise (.one _ rfl rfl) _ _
  case converted => intros; exact .inl (.one _ rfl rfl)
  case responds => intros; exact statementEnd_respondOk _ _ _

theorem readP_statementEnd {fresh : Bool} {s t : State} (he : exec (.readP fresh) s = .next t) :
    StatementEnd s t := by
  apply readP_next_elim fresh s t he
  case waits => rintro rfl; exact .inl (.none rfl)
  case notReady | stale => intros; exact statementEnd_raise (.none rfl) _ _
  case entryFresh | entry => intros; exact .inl (.none rfl)
  case nackedT | nacked => intros; exact statementEnd_raise (.one _ rfl rfl) _ _
  case convertedT | converted => intros; exact .inl (.one _ rfl rfl)
  case responds => intros; exact statementEnd_respondOk _ _ _

theorem readH_statementEnd {fresh : Bool} {s t : State} (he : exec (.readH fresh) s = .next t) :
    StatementEnd s t := by
  apply readH_next_elim fresh s t he
  case waits => rintro rfl; exact .inl (.none rfl)
  case notReady | stale => intros; exact statementEnd_raise (.none rfl) _ _
  case entryFresh | entry => intros; exact .inl (.none rfl)
  case nackedT | nacked => intros; exact statementEnd_raise (.one _ rfl rfl) _ _
  case convertedT | converted => intros; exact .inl (.one _ rfl rfl)
  case responds => intros; exact statementEnd_respondOk _ _ _

theorem exec_statementEnd {i : Instr} {s t : State} (he : exec i s = .next t) : StatementEnd s t := by
  cases i with
  | init => exact init_statementEnd he
  | configure => exact configure_statementEnd he
  | readT => exact readT_statementEnd he
  | readP => exact readP_statementEnd he
  | readH => exact readH_statementEnd he

/-- Settles O15: a statement ends with a port event at most, and a response only by `finish`, after it. -/
theorem execEmitsOneEvent : Obligations.ExecEmitsOneEvent := by
  unfold Obligations.ExecEmitsOneEvent
  intro i s t he
  obtain hport | ⟨r, u, rfl, hport, hflags⟩ := exec_statementEnd he
  · obtain ⟨es, hes, hports, haccepts, hresponses⟩ := hport.counts
    exact ⟨es, hes, hports, haccepts, .inl hresponses⟩
  · obtain ⟨es, hes, hports, haccepts, hresponses⟩ := hport.counts
    refine ⟨es ++ [.response r], by simp [hes], ?_, ?_, .inr ⟨r, ?_, by simp, rfl, rfl, rfl, rfl, hflags⟩⟩
    · simpa [isPortEvent] using hports
    · simpa [isAccept] using haccepts
    · simp [isResponse, hresponses]

end Sys2Proof.Machine
end

section
/-! PROOF. What a statement of each command leaves unchanged (spec/10_state.md R37, spec/20_memory.md R65 to R68). -/

namespace Sys2Proof.Machine

/-! ### What no command writes before its response -/

/-- The response record and `BUSY` change only in the statement that ends the command (R32, R22). -/
def ResponseUntilEnd (s t : State) : Prop :=
  t.seq ≠ .idle → t.resp = s.resp ∧ t.respValid = s.respValid ∧ t.busy = s.busy

theorem ResponseUntilEnd.goesOn {s t : State} (hresp : t.resp = s.resp) (hvalid : t.respValid = s.respValid)
    (hbusy : t.busy = s.busy) : ResponseUntilEnd s t := fun _ => ⟨hresp, hvalid, hbusy⟩

theorem ResponseUntilEnd.ends {s t : State} (h : t.seq = .idle) : ResponseUntilEnd s t := fun hne => absurd h hne

theorem sameOutside_refl (s : State) : sameOutside s s := ⟨rfl, rfl, rfl, rfl⟩

/-- No statement writes what lies outside the command (R37; log 30). -/
theorem exec_sameOutside {i : Instr} {s t : State} (he : exec i s = .next t) : sameOutside s t := by
  cases i with
  | init =>
    apply init_next_elim s t he
    case waits => rintro rfl; exact sameOutside_refl t
    all_goals (intros; exact ⟨rfl, rfl, rfl, rfl⟩)
  | configure md ot opr oh flt sb =>
    apply configure_next_elim _ _ _ _ _ _ s t he _ rfl
    case waits => rintro rfl; exact sameOutside_refl t
    all_goals (intros; exact ⟨rfl, rfl, rfl, rfl⟩)
  | readT =>
    apply readT_next_elim s t he
    case waits => rintro rfl; exact sameOutside_refl t
    all_goals (intros; exact ⟨rfl, rfl, rfl, rfl⟩)
  | readP f =>
    apply readP_next_elim f s t he
    case waits => rintro rfl; exact sameOutside_refl t
    all_goals (intros; exact ⟨rfl, rfl, rfl, rfl⟩)
  | readH f =>
    apply readH_next_elim f s t he
    case waits => rintro rfl; exact sameOutside_refl t
    all_goals (intros; exact ⟨rfl, rfl, rfl, rfl⟩)

/-- A statement that does not end its command leaves the response record and `BUSY` (R37). -/
theorem exec_responseUntilEnd {i : Instr} {s t : State} (he : exec i s = .next t) : ResponseUntilEnd s t := by
  cases i with
  | init =>
    apply init_next_elim s t he
    case waits => rintro rfl; exact .goesOn rfl rfl rfl
    case rejected | readNacked | writeNacked | wrongDevice | pollTimeout | responds => intros; exact .ends rfl
    all_goals (intros; exact .goesOn rfl rfl rfl)
  | configure md ot opr oh flt sb =>
    apply configure_next_elim _ _ _ _ _ _ s t he _ rfl
    case waits => rintro rfl; exact .goesOn rfl rfl rfl
    case notReady | nacked | responds => intros; exact .ends rfl
    all_goals (intros; exact .goesOn rfl rfl rfl)
  | readT =>
    apply readT_next_elim s t he
    case waits => rintro rfl; exact .goesOn rfl rfl rfl
    case notReady | nacked | responds => intros; exact .ends rfl
    all_goals (intros; exact .goesOn rfl rfl rfl)
  | readP f =>
    apply readP_next_elim f s t he
    case waits => rintro rfl; exact .goesOn rfl rfl rfl
    case notReady | stale | nackedT | nacked | responds => intros; exact .ends rfl
    all_goals (intros; exact .goesOn rfl rfl rfl)
  | readH f =>
    apply readH_next_elim f s t he
    case waits => rintro rfl; exact .goesOn rfl rfl rfl
    case notReady | stale | nackedT | nacked | responds => intros; exact .ends rfl
    all_goals (intros; exact .goesOn rfl rfl rfl)

/-! ### What a write of `ApplyConfig` stores to -/

/-- The bytes of the device that a configuration write may change; the first two writes also leave the humidity
oversampling in effect (R65 to R68, R82). -/
def CfgWrite.Stores (d e : Device) : CfgWrite → Prop
  | .ctrlHum => sameBytesBut [0xF2] d e ∧ e.oshEff = d.oshEff
  | .config => sameBytesBut [0xF5] d e ∧ e.oshEff = d.oshEff
  | .ctrlMeas => ctrlMeasStores d e

theorem CfgWrite.stores_refl (w : CfgWrite) (d : Device) : w.Stores d d := by
  cases w with
  | ctrlHum => exact ⟨fun _ _ => rfl, rfl⟩
  | config => exact ⟨fun _ _ => rfl, rfl⟩
  | ctrlMeas => exact fun _ _ _ => rfl

theorem CfgWrite.stores_write (w : CfgWrite) (d : Device) (k : Bool) (v : Byte) :
    w.Stores d (d.write k w.addr v) := by
  cases w with
  | ctrlHum => exact write_ctrlHum_bytes d k v
  | config => exact write_config_bytes d k v
  | ctrlMeas => exact write_ctrlMeas_bytes d k v

/-! ### CONFIGURE -/

section
variable {md : BitVec 2} {ot opr oh flt sb : BitVec 3} {s t : State}

/-- The registers that column CONFIGURE of R37 has no mark for. -/
theorem configure_keeps (he : exec (.configure md ot opr oh flt sb) s = .next t) :
    sameLifecycle s t ∧ t.tfine = s.tfine ∧ t.tfineSent = s.tfineSent ∧ t.tmp = s.tmp ∧
      t.delayDone = s.delayDone := by
  apply configure_next_elim _ _ _ _ _ _ s t he _ rfl
  case waits => rintro rfl; exact ⟨⟨rfl, rfl, rfl, rfl, rfl⟩, rfl, rfl, rfl, rfl⟩
  all_goals (intros; exact ⟨⟨rfl, rfl, rfl, rfl, rfl⟩, rfl, rfl, rfl, rfl⟩)

/-- The shadow changes at the third write; its validity bit and TFINE_VALID are cleared at the entry (R183, R187). -/
theorem configure_shadow (he : exec (.configure md ot opr oh flt sb) s = .next t) :
    (s.seq ≠ .configure (.write .ctrlMeas) → t.cfg = s.cfg ∧ (s.seq ≠ .idle → t.cfgValid = s.cfgValid)) ∧
      (s.seq ≠ .idle → t.tfineValid = s.tfineValid) := by
  apply configure_next_elim _ _ _ _ _ _ s t he _ rfl
  case waits => rintro rfl; exact ⟨fun _ => ⟨rfl, fun _ => rfl⟩, fun _ => rfl⟩
  case entry => intro hidle _; exact ⟨fun _ => ⟨rfl, fun hne => absurd hidle hne⟩, fun hne => absurd hidle hne⟩
  case lastWritten => intro rest k hlast; exact ⟨fun hne => absurd hlast hne, fun _ => rfl⟩
  all_goals (intros; exact ⟨fun _ => ⟨rfl, fun _ => rfl⟩, fun _ => rfl⟩)

/-- CONFIGURE reaches the device by the write it stands at only. -/
theorem configure_device (he : exec (.configure md ot opr oh flt sb) s = .next t) :
    t.dev = s.dev ∨ ∃ w k v, s.seq = .configure (.write w) ∧ t.dev = s.dev.write k w.addr v := by
  apply configure_next_elim _ _ _ _ _ _ s t he _ rfl
  case waits => rintro rfl; exact .inl rfl
  case written => intro w w' rest k _ hs; exact .inr ⟨w, k, _, hs, rfl⟩
  case lastWritten => intro rest k hs; exact .inr ⟨.ctrlMeas, k, _, hs, rfl⟩
  all_goals (intros; exact .inl rfl)

theorem configure_stores (he : exec (.configure md ot opr oh flt sb) s = .next t) {w : CfgWrite}
    (hs : s.seq = .configure (.write w)) : w.Stores s.dev t.dev := by
  obtain hdev | ⟨w', k, v, hs', hdev⟩ := configure_device he
  · rw [hdev]; exact w.stores_refl s.dev
  · obtain rfl : w = w' := by simpa [hs] using hs'
    rw [hdev]; exact w.stores_write s.dev k v

end

/-- Settles O35: the registers by R37's column, the device by the one write a statement can make. -/
theorem configureFrame : Obligations.ConfigureFrame := by
  unfold Obligations.ConfigureFrame
  intro s t md ot opr oh flt sb he
  obtain ⟨hlifecycle, htfine, hsent, htmp, hdelay⟩ := configure_keeps he
  obtain ⟨hcfg, hvalid⟩ := configure_shadow he
  refine ⟨hlifecycle, exec_sameOutside he, htfine, hsent, htmp, hdelay, hcfg, hvalid, exec_responseUntilEnd he,
    configure_stores he, configure_stores he, configure_stores he, fun hnone => ?_⟩
  obtain hdev | ⟨w, k, v, hs, -⟩ := configure_device he
  · exact hdev
  · exact absurd hs (hnone w)

/-! ### The readouts -/

/-- What no readout writes: all but its result, the fine temperature and the response (R37, R77). -/
def ReadoutKeeps (s t : State) : Prop :=
  sameLifecycle s t ∧ sameShadow s t ∧ t.dev = s.dev ∧ t.delayDone = s.delayDone ∧
    t.tmp.e4 = s.tmp.e4 ∧ t.tmp.e5b = s.tmp.e5b

theorem readoutKeeps_refl (s : State) : ReadoutKeeps s s :=
  ⟨⟨rfl, rfl, rfl, rfl, rfl⟩, ⟨rfl, rfl⟩, rfl, rfl, rfl, rfl⟩

/-- The fine temperature changes at a temperature conversion only (R244). -/
def FineUntilConversion (s t : State) : Prop := s.seq.convertsT = false → sameFine s t

theorem FineUntilConversion.same {s t : State} (htfine : t.tfine = s.tfine) (hvalid : t.tfineValid = s.tfineValid)
    (hsent : t.tfineSent = s.tfineSent) : FineUntilConversion s t := fun _ => ⟨htfine, hvalid, hsent⟩

theorem FineUntilConversion.at {s t : State} {q : Seq} (hs : s.seq = q) (hq : q.convertsT = true) :
    FineUntilConversion s t := fun h => by rw [hs, hq] at h; cases h

theorem readT_keeps {s t : State} (he : exec .readT s = .next t) : ReadoutKeeps s t ∧ FineUntilConversion s t := by
  apply readT_next_elim s t he
  case waits => rintro rfl; exact ⟨readoutKeeps_refl t, .same rfl rfl rfl⟩
  case nacked => intro rest hs; exact ⟨readoutKeeps_refl s, .at hs rfl⟩
  case converted => intro rest b0 b1 b2 v f tf se hs _; exact ⟨readoutKeeps_refl s, .at hs rfl⟩
  all_goals (intros; exact ⟨readoutKeeps_refl s, .same rfl rfl rfl⟩)

theorem readP_keeps {fresh : Bool} {s t : State} (he : exec (.readP fresh) s = .next t) :
    ReadoutKeeps s t ∧ FineUntilConversion s t := by
  apply readP_next_elim fresh s t he
  case waits => rintro rfl; exact ⟨readoutKeeps_refl t, .same rfl rfl rfl⟩
  case nackedT => intro rest hs; exact ⟨readoutKeeps_refl s, .at hs rfl⟩
  case convertedT => intro rest b0 b1 b2 tf se hs _; exact ⟨readoutKeeps_refl s, .at hs rfl⟩
  all_goals (intros; exact ⟨readoutKeeps_refl s, .same rfl rfl rfl⟩)

theorem readH_keeps {fresh : Bool} {s t : State} (he : exec (.readH fresh) s = .next t) :
    ReadoutKeeps s t ∧ FineUntilConversion s t := by
  apply readH_next_elim fresh s t he
  case waits => rintro rfl; exact ⟨readoutKeeps_refl t, .same rfl rfl rfl⟩
  case nackedT => intro rest hs; exact ⟨readoutKeeps_refl s, .at hs rfl⟩
  case convertedT => intro rest b0 b1 b2 tf se hs _; exact ⟨readoutKeeps_refl s, .at hs rfl⟩
  all_goals (intros; exact ⟨readoutKeeps_refl s, .same rfl rfl rfl⟩)

/-- Settles O41, command by command. -/
theorem readoutFrame : Obligations.ReadoutFrame := by
  unfold Obligations.ReadoutFrame
  intro i s t hi he
  have hkeeps : ReadoutKeeps s t ∧ FineUntilConversion s t := by
    obtain rfl | ⟨f, rfl⟩ | ⟨f, rfl⟩ := hi
    · exact readT_keeps he
    · exact readP_keeps he
    · exact readH_keeps he
  obtain ⟨⟨hlifecycle, hshadow, hdev, hdelay, he4, he5b⟩, hfine⟩ := hkeeps
  exact ⟨hlifecycle, hshadow, exec_sameOutside he, hdev, hdelay, he4, he5b, hfine, exec_responseUntilEnd he⟩

/-! ### INIT -/

/-- TFINE is never written, and TFINE_SENT at the entry only (R140; log 10). -/
theorem init_fine {s t : State} (he : exec .init s = .next t) :
    t.tfine = s.tfine ∧ (s.seq ≠ .idle → t.tfineSent = s.tfineSent) := by
  apply init_next_elim s t he
  case waits => rintro rfl; exact ⟨rfl, fun _ => rfl⟩
  case entry => intro hidle _; exact ⟨rfl, fun hne => absurd hidle hne⟩
  all_goals (intros; exact ⟨rfl, fun _ => rfl⟩)

/-- The calibration store and its locals change at a row of the load only (R145). -/
theorem init_cal {s t : State} (he : exec .init s = .next t) (hrow : ∀ r, s.seq ≠ .init (.loadCal r)) :
    t.cal = s.cal ∧ t.tmp = s.tmp := by
  apply init_next_elim s t he
  case waits => rintro rfl; exact ⟨rfl, rfl⟩
  case rowLoaded => intro r r' rest b0 b1 b2 hs _; exact absurd hs (hrow r)
  case lastRowLoaded => intro rest b0 b1 b2 hs; exact absurd hs (hrow .h6)
  all_goals (intros; exact ⟨rfl, rfl⟩)

/-- The shadow changes at the third default write, and the poll count at a poll and after the reset delay
(R146, R140, R144). -/
theorem init_shadow_polls {s t : State} (he : exec .init s = .next t) :
    (s.seq ≠ .init (.applyDefault .ctrlMeas) → t.cfg = s.cfg) ∧
      (s.seq ≠ .init .poll → s.seq ≠ .init .resetSettle → t.polls = s.polls) := by
  apply init_next_elim s t he
  case waits => rintro rfl; exact ⟨fun _ => rfl, fun _ _ => rfl⟩
  case resetSettled => intro k hs; exact ⟨fun _ => rfl, fun _ hne => absurd hs hne⟩
  case pollTimeout => intro rest st hs _ _; exact ⟨fun _ => rfl, fun hne => absurd hs hne⟩
  case pollBusy => intro rest st hs _ _; exact ⟨fun _ => rfl, fun hne => absurd hs hne⟩
  case lastDefaultWritten => intro rest k hs; exact ⟨fun hne => absurd hs hne, fun _ _ => rfl⟩
  all_goals (intros; exact ⟨fun _ => rfl, fun _ _ => rfl⟩)

/-- Between the entry and the end, the validity bits change with the last calibration row and the last default
write, and the lifecycle with the final settle (R140, R145 to R147). -/
theorem init_validity_life {s t : State} (he : exec .init s = .next t) (hend : t.seq ≠ .idle)
    (hentry : s.seq ≠ .idle) :
    (s.seq ≠ .init (.loadCal .h6) → t.calValid = s.calValid ∧ t.tfineValid = s.tfineValid ∧
      (s.seq ≠ .init (.applyDefault .ctrlMeas) → t.cfgValid = s.cfgValid)) ∧
      (s.seq ≠ .init .finalSettle → t.life = s.life ∧ t.failCode = s.failCode) := by
  revert hend
  apply init_next_elim s t he
  case waits => rintro rfl _; exact ⟨fun _ => ⟨rfl, rfl, fun _ => rfl⟩, fun _ => ⟨rfl, rfl⟩⟩
  case rejected | readNacked | writeNacked | wrongDevice | pollTimeout | responds =>
    intros; rename_i hne; exact absurd rfl hne
  case entry => intro hidle; exact absurd hidle hentry
  case lastRowLoaded =>
    intro rest b0 b1 b2 hs _; exact ⟨fun hne => absurd hs hne, fun _ => ⟨rfl, rfl⟩⟩
  case lastDefaultWritten =>
    intro rest k hs _; exact ⟨fun _ => ⟨rfl, rfl, fun hne => absurd hs hne⟩, fun _ => ⟨rfl, rfl⟩⟩
  case settled =>
    intro k hs _; exact ⟨fun _ => ⟨rfl, rfl, fun _ => rfl⟩, fun hne => absurd hs hne⟩
  all_goals (intros; exact ⟨fun _ => ⟨rfl, rfl, fun _ => rfl⟩, fun _ => ⟨rfl, rfl⟩⟩)

/-- INIT reaches the device by the reset write and the default writes only (R143, R146). -/
theorem init_device {s t : State} (he : exec .init s = .next t) :
    t.dev = s.dev ∨ (∃ k v, s.seq = .init .reset ∧ t.dev = s.dev.write k Config.regReset v) ∨
      ∃ w k v, s.seq = .init (.applyDefault w) ∧ t.dev = s.dev.write k w.addr v := by
  apply init_next_elim s t he
  case waits => rintro rfl; exact .inl rfl
  case resetWritten => intro rest k hs; exact .inr (.inl ⟨k, Config.resetCode, hs, rfl⟩)
  case defaultWritten => intro w w' rest k _ hs; exact .inr (.inr ⟨w, k, _, hs, rfl⟩)
  case lastDefaultWritten => intro rest k hs; exact .inr (.inr ⟨.ctrlMeas, k, _, hs, rfl⟩)
  all_goals (intros; exact .inl rfl)

theorem init_reset_low {s t : State} (he : exec .init s = .next t) (hs : s.seq = .init .reset) {a : Nat}
    (ha : a < 0xF2) : Memory.read t.dev.regs a = Memory.read s.dev.regs a := by
  obtain hdev | ⟨k, v, -, hdev⟩ | ⟨w, k, v, hs', -⟩ := init_device he
  · rw [hdev]
  · rw [hdev]; exact write_reset_bytes s.dev k v a ha
  · simp [hs] at hs'

theorem init_stores {s t : State} (he : exec .init s = .next t) {w : CfgWrite}
    (hs : s.seq = .init (.applyDefault w)) : w.Stores s.dev t.dev := by
  obtain hdev | ⟨k, v, hs', -⟩ | ⟨w', k, v, hs', hdev⟩ := init_device he
  · rw [hdev]; exact w.stores_refl s.dev
  · simp [hs] at hs'
  · obtain rfl : w = w' := by simpa [hs] using hs'
    rw [hdev]; exact w.stores_write s.dev k v

theorem init_device_elsewhere {s t : State} (he : exec .init s = .next t) (hreset : s.seq ≠ .init .reset)
    (hdefault : ∀ w, s.seq ≠ .init (.applyDefault w)) : t.dev = s.dev := by
  obtain hdev | ⟨k, v, hs, -⟩ | ⟨w, k, v, hs, -⟩ := init_device he
  · exact hdev
  · exact absurd hs hreset
  · exact absurd hs (hdefault w)

/-- Settles O42: the registers by R37's column, the device by the one write a statement can make. -/
theorem initFrame : Obligations.InitFrame := by
  unfold Obligations.InitFrame
  intro s t he
  obtain ⟨htfine, hsent⟩ := init_fine he
  obtain ⟨hcfg, hpolls⟩ := init_shadow_polls he
  exact ⟨exec_sameOutside he, htfine, hsent, init_cal he, hcfg, hpolls, exec_responseUntilEnd he,
    init_validity_life he, fun hs => .inr fun _ ha _ => init_reset_low he hs ha, fun hs => (init_stores he hs).1,
    fun hs => (init_stores he hs).1, init_stores he, init_device_elsewhere he⟩

end Sys2Proof.Machine
end

section
/-! PROOF. The machine's invariant (spec/10_state.md R21, R25, R35, spec/60_exceptions.md R270), in two parts: the
registers, which every statement keeps whatever the position, and the control (position, validity bits, record of
the last CONFIGURE), which it keeps from a position of its command. -/

namespace Sys2Proof.Machine

/-! ### The registers -/

/-- The part of the invariant that does not depend on the position: LIFE and FAIL_CODE, the ranges of H4 and H5, the
status codes, the limit, the register space. -/
structure State.RegistersOk (s : State) : Prop where
  failed : s.life = .failed ↔ s.failCode ≠ 0#4
  nibbles : in12 s.cal.h4 = true ∧ in12 s.cal.h5 = true
  codes : s.resp.status.toNat < 8 ∧ s.failCode.toNat < 8
  limit : 0 < s.calPollLimit ∧ s.calPollLimit < 2 ^ 32
  memory : Memory.wf s.dev.regs = true

theorem State.Inv.registersOk {s : State} (h : s.Inv) : s.RegistersOk :=
  ⟨h.failed, h.nibbles, h.codes, h.limit, h.memory⟩

/-- The registers of `t` that the invariant speaks of are those of `s`, but for the device. -/
theorem State.RegistersOk.of_same {s t : State} (h : s.RegistersOk) (hlife : t.life = s.life)
    (hcode : t.failCode = s.failCode) (hcal : t.cal = s.cal) (hresp : t.resp = s.resp)
    (hlimit : t.calPollLimit = s.calPollLimit) (hmemory : Memory.wf t.dev.regs = true) : t.RegistersOk := by
  refine ⟨?_, ?_, ?_, ?_, hmemory⟩
  · rw [hlife, hcode]; exact h.failed
  · rw [hcal]; exact h.nibbles
  · rw [hresp, hcode]; exact h.codes
  · rw [hlimit]; exact h.limit

theorem errorKind_code_range (e : ErrorKind) : e.code ≠ 0#4 ∧ e.code.toNat < 8 := by cases e <;> decide

theorem State.RegistersOk.respondOk {s : State} {value : Word} {flags : BitVec 3} (h : s.RegistersOk) :
    (respondOk value flags s).RegistersOk :=
  ⟨h.failed, h.nibbles, ⟨by simp, h.codes.2⟩, h.limit, h.memory⟩

theorem State.RegistersOk.raise {s : State} {e : ErrorKind} {info : Word} (h : s.RegistersOk) :
    (raise e info s).RegistersOk :=
  ⟨h.failed, h.nibbles, ⟨(errorKind_code_range e).2, h.codes.2⟩, h.limit, h.memory⟩

theorem State.RegistersOk.initFail {s : State} {e : ErrorKind} {info : Word} (h : s.RegistersOk) :
    (initFail e info s).RegistersOk := by
  obtain ⟨hne, hlt⟩ := errorKind_code_range e
  exact ⟨⟨fun _ => hne, fun _ => rfl⟩, h.nibbles, ⟨hlt, hlt⟩, h.limit, h.memory⟩

/-- A signed byte times 16 plus a nibble fits 12 signed bits (R114, R115). -/
theorem in12_signedByte_nibble (hi : Byte) (lo : BitVec 4) : in12 (sext 16 hi * 16#16 + zext 16 lo) = true := by
  have hlo : (zext 16 lo).toInt = lo.toNat := by
    have := lo.isLt
    rw [zext, BitVec.toInt_setWidth, Int.bmod_eq_of_le_mul_two] <;> omega
  have hhi : (sext 16 hi).toInt = hi.toInt := BitVec.toInt_signExtend_of_le (by decide)
  have hbyte := hi.toInt_lt
  have hbyte' := hi.le_toInt
  have hnibble := lo.isLt
  have hsum : (sext 16 hi * 16#16 + zext 16 lo).toInt = hi.toInt * 16 + lo.toNat := by
    rw [BitVec.toInt_add, BitVec.toInt_mul, hhi, hlo, Int.bmod_add_bmod]
    exact Int.bmod_eq_of_le_mul_two (by simp; omega) (by simp; omega)
  simp only [in12, hsum, decide_eq_true_eq]
  omega

/-- A row of the calibration load keeps H4 and H5 in range (R25, R145). -/
theorem calRow_load_in12 (r : CalRow) (c : Cal) (l : Locals) (b0 b1 : Byte)
    (h : in12 c.h4 = true ∧ in12 c.h5 = true) :
    in12 (r.load c l b0 b1).h4 = true ∧ in12 (r.load c l b0 b1).h5 = true := by
  cases r
  case h4 => exact ⟨in12_signedByte_nibble _ _, h.2⟩
  case h5 => exact ⟨h.1, in12_signedByte_nibble _ _⟩
  all_goals exact h

theorem init_keeps_registers {s t : State} (h : s.RegistersOk) (he : exec .init s = .next t) : t.RegistersOk := by
  apply init_next_elim s t he
  case waits => rintro rfl; exact h
  case rejected => intros; exact h.raise
  case readNacked | writeNacked | wrongDevice | pollTimeout =>
    intros; exact .initFail (h.of_same rfl rfl rfl rfl rfl h.memory)
  case resetWritten | defaultWritten | lastDefaultWritten =>
    intros; exact h.of_same rfl rfl rfl rfl rfl (device_write_wf s.dev _ _ _ h.memory)
  case rowLoaded | lastRowLoaded =>
    intros; exact ⟨h.failed, calRow_load_in12 _ _ _ _ _ h.nibbles, h.codes, h.limit, h.memory⟩
  case settled =>
    intros; exact ⟨⟨nofun, fun hne => absurd rfl hne⟩, h.nibbles, ⟨h.codes.1, by simp⟩, h.limit, h.memory⟩
  case responds => intros; exact h.respondOk
  all_goals (intros; exact h.of_same rfl rfl rfl rfl rfl h.memory)

theorem configure_keeps_registers {md : BitVec 2} {ot opr oh flt sb : BitVec 3} {s t : State} (h : s.RegistersOk)
    (he : exec (.configure md ot opr oh flt sb) s = .next t) : t.RegistersOk := by
  apply configure_next_elim _ _ _ _ _ _ s t he _ rfl
  case waits => rintro rfl; exact h
  case notReady => intros; exact h.raise
  case entry => intros; exact h.of_same rfl rfl rfl rfl rfl h.memory
  case nacked => intros; exact .raise (h.of_same rfl rfl rfl rfl rfl h.memory)
  case written | lastWritten =>
    intros; exact h.of_same rfl rfl rfl rfl rfl (device_write_wf s.dev _ _ _ h.memory)
  case responds => intros; exact h.respondOk

theorem readT_keeps_registers {s t : State} (h : s.RegistersOk) (he : exec .readT s = .next t) : t.RegistersOk := by
  apply readT_next_elim s t he
  case waits => rintro rfl; exact h
  case notReady => intros; exact h.raise
  case nacked => intros; exact .raise (h.of_same rfl rfl rfl rfl rfl h.memory)
  case responds => intros; exact h.respondOk
  all_goals (intros; exact h.of_same rfl rfl rfl rfl rfl h.memory)

theorem readP_keeps_registers {fresh : Bool} {s t : State} (h : s.RegistersOk)
    (he : exec (.readP fresh) s = .next t) : t.RegistersOk := by
  apply readP_next_elim fresh s t he
  case waits => rintro rfl; exact h
  case notReady | stale => intros; exact h.raise
  case nackedT | nacked => intros; exact .raise (h.of_same rfl rfl rfl rfl rfl h.memory)
  case responds => intros; exact h.respondOk
  all_goals (intros; exact h.of_same rfl rfl rfl rfl rfl h.memory)

theorem readH_keeps_registers {fresh : Bool} {s t : State} (h : s.RegistersOk)
    (he : exec (.readH fresh) s = .next t) : t.RegistersOk := by
  apply readH_next_elim fresh s t he
  case waits => rintro rfl; exact h
  case notReady | stale => intros; exact h.raise
  case nackedT | nacked => intros; exact .raise (h.of_same rfl rfl rfl rfl rfl h.memory)
  case responds => intros; exact h.respondOk
  all_goals (intros; exact h.of_same rfl rfl rfl rfl rfl h.memory)

theorem exec_keeps_registers {i : Instr} {s t : State} (h : s.RegistersOk) (he : exec i s = .next t) :
    t.RegistersOk := by
  cases i with
  | init => exact init_keeps_registers h he
  | configure => exact configure_keeps_registers h he
  | readT => exact readT_keeps_registers h he
  | readP => exact readP_keeps_registers h he
  | readH => exact readH_keeps_registers h he

/-! ### The record of the last CONFIGURE -/

theorem configureLog_append (es : List Event) (e : Event) :
    configureLog (es ++ [e]) = (configureLog es).see e := by simp [configureLog]

theorem configureLog_see_port (m : ConfigureLog) {e : Event} (h : isPortEvent e = true) : m.see e = m := by
  cases e with
  | accept w => cases h
  | read addr n answer => rfl
  | write addr v ack => rfl
  | delay d => rfl
  | response r => cases h

/-- A bus transaction or a delay does not change what the record says of the last CONFIGURE. -/
theorem AtMostOnePortEvent.configureLog_eq {s t : State} (h : AtMostOnePortEvent s t) :
    configureLog t.events = configureLog s.events := by
  obtain h | ⟨e, hport, h⟩ := h
  · rw [h]
  · rw [h, configureLog_append, configureLog_see_port _ hport]

/-- No CONFIGURE runs after a response. -/
theorem configureLog_running_finish (r : Response) (s : State) :
    (configureLog (finish r s).events).running = false := by
  rw [finish_events, configureLog_append, ConfigureLog.see]
  split
  · rfl
  · next hrunning => exact Bool.eq_false_iff.mpr hrunning

/-- The response of another command says nothing of the last CONFIGURE. -/
theorem configureLog_finish_other {s : State} (r : Response) (h : (configureLog s.events).running = false) :
    configureLog (finish r s).events = configureLog s.events := by
  rw [finish_events, configureLog_append, ConfigureLog.see, h, if_neg Bool.false_ne_true]

/-- The response of a CONFIGURE says whether it failed with TransportError. -/
theorem configureLog_finish_configure {s : State} (r : Response) (h : (configureLog s.events).running = true) :
    (configureLog (finish r s).events).failed = (r.status == 0x3#4) := by
  rw [finish_events, configureLog_append, ConfigureLog.see, h, if_pos rfl]

/-! ### The validity bits at idle -/

theorem idleOk_iff (s : State) : s.idleOk = true ↔
    (s.life = .ready ↔ s.calValid = true) ∧ (s.tfineValid = true → s.life = .ready) ∧
      (s.life = .ready → s.shadowOk = true) := by
  simp only [State.idleOk, Bool.and_eq_true, Bool.or_eq_true, Bool.not_eq_true', beq_iff_eq]
  grind

/-! ### The control -/

/-- The part of the invariant that depends on the position. -/
structure State.ControlInv (s : State) : Prop where
  control : s.controlOk = true
  validity : s.validityOk = true
  record : (configureLog s.events).running = s.seq.isConfigure

theorem State.ControlInv.inv {s : State} (h : s.ControlInv) (hregs : s.RegistersOk) : s.Inv :=
  ⟨h.control, h.validity, hregs.failed, h.record, hregs.nibbles, hregs.codes, hregs.limit, hregs.memory⟩

/-- `s` runs the command `i` that CMD holds, at its first statement or at a position of its own. -/
structure State.Executing (i : Instr) (s : State) : Prop where
  word : decode s.cmd = .command i
  busy : s.busy = true
  position : s.seq = .idle ∨ seqFits i s.seq = true
  validity : s.validityOk = true
  record : (configureLog s.events).running = isConfigure s.cmd

/-- A position of a command is a position of CONFIGURE exactly if the word is one. -/
theorem isConfigure_of_seqFits {w : Word} {i : Instr} {q : Seq} (hw : decode w = .command i)
    (hq : seqFits i q = true) : isConfigure w = q.isConfigure := by
  cases i <;> cases q <;> simp [seqFits, isConfigure, Seq.isConfigure, hw] at hq ⊢

theorem ne_idle_of_seqFits {i : Instr} {q : Seq} (hq : seqFits i q = true) : q ≠ .idle := by
  rintro rfl
  cases i <;> cases hq

/-- What the validity bits are where `s` stands, as a fact about the position `q`. -/
theorem State.Executing.validityAt {i : Instr} {s : State} (h : s.Executing i) {q : Seq} (hs : s.seq = q) :
    State.validityOk { s with seq := q } = true := by
  subst hs
  exact h.validity

/-- The record knows through a statement's port event whether the command is a CONFIGURE. -/
theorem State.Executing.running_eq {i : Instr} {s u : State} (h : s.Executing i) (hport : AtMostOnePortEvent s u) :
    (configureLog u.events).running = isConfigure s.cmd := by rw [hport.configureLog_eq, h.record]

theorem State.Executing.running_configure {md : BitVec 2} {ot opr oh flt sb : BitVec 3} {s u : State}
    (h : s.Executing (.configure md ot opr oh flt sb)) (hport : AtMostOnePortEvent s u) :
    (configureLog u.events).running = true := by
  rw [h.running_eq hport, isConfigure, h.word]

theorem State.Executing.running_other {i : Instr} {s u : State} (h : s.Executing i)
    (hi : ∀ md ot opr oh flt sb, i ≠ .configure md ot opr oh flt sb) (hport : AtMostOnePortEvent s u) :
    (configureLog u.events).running = false := by
  rw [h.running_eq hport, isConfigure, h.word]
  cases i with
  | configure md ot opr oh flt sb => exact absurd rfl (hi md ot opr oh flt sb)
  | init => rfl
  | readT => rfl
  | readP f => rfl
  | readH f => rfl

/-! ### Where a statement can land -/

/-- `t` stands at a position of `i` with the validity bits of that position, or a response has just ended the
command with the validity bits of idle. -/
def Lands (i : Instr) (t : State) : Prop :=
  (seqFits i t.seq = true ∧ t.validityOk = true) ∨ ∃ r u, t = finish r u ∧ (finish r u).idleOk = true

theorem controlInv_finish {r : Response} {u : State} (h : (finish r u).idleOk = true) : (finish r u).ControlInv :=
  ⟨rfl, h, configureLog_running_finish r u⟩

theorem State.Executing.controlInv_of_lands {i : Instr} {s t : State} (h : s.Executing i) (he : exec i s = .next t)
    (hlands : Lands i t) : t.ControlInv := by
  obtain ⟨hfits, hvalid⟩ | ⟨r, u, rfl, hidle⟩ := hlands
  · have hne := ne_idle_of_seqFits hfits
    obtain ⟨hcmd, -, -, -⟩ := exec_sameOutside he
    obtain ⟨-, -, hbusy⟩ := exec_responseUntilEnd he hne
    have hlog : configureLog t.events = configureLog s.events := by
      obtain hport | ⟨r, u, rfl, -, -⟩ := exec_statementEnd he
      · exact hport.configureLog_eq
      · exact absurd rfl hne
    refine ⟨?_, hvalid, ?_⟩
    · simp [State.controlOk, hcmd, hbusy, h.busy, h.word, hfits]
    · rw [hlog, h.record]; exact isConfigure_of_seqFits h.word hfits
  · exact controlInv_finish hidle

/-! #### A response -/

/-- A response while LIFE is not READY. -/
theorem lands_finish_notReady {i : Instr} {r : Response} {u : State} (hlife : u.life ≠ .ready)
    (hcal : u.calValid = false) (hfine : u.tfineValid = false) : Lands i (finish r u) :=
  .inr ⟨r, u, rfl, (idleOk_iff _).mpr (by simp [hlife, hcal, hfine])⟩

/-- A response while LIFE is READY. -/
theorem lands_finish_ready {i : Instr} {r : Response} {u : State} (hready : u.readyOk = true)
    (hshadow : (finish r u).shadowOk = true) : Lands i (finish r u) := by
  simp only [State.readyOk, Bool.and_eq_true, beq_iff_eq] at hready
  exact .inr ⟨r, u, rfl, (idleOk_iff _).mpr (by simp [hready, hshadow])⟩

/-- A valid shadow stays valid with a response. -/
theorem shadowOk_finish_of_cfgValid {r : Response} {u : State} (h : u.cfgValid = true) :
    (finish r u).shadowOk = true := by simp [State.shadowOk, h]

/-- The response of another command than CONFIGURE does not touch the shadow's relation to the record. -/
theorem shadowOk_finish_other {r : Response} {u : State} (hrun : (configureLog u.events).running = false) :
    (finish r u).shadowOk = u.shadowOk := by
  rw [State.shadowOk, configureLog_finish_other r hrun]; rfl

/-- The response of another command than CONFIGURE, where the bits are already as at idle. -/
theorem lands_finish_idleOk {i : Instr} {r : Response} {u : State} (hrun : (configureLog u.events).running = false)
    (h : u.idleOk = true) : Lands i (finish r u) := by
  refine .inr ⟨r, u, rfl, ?_⟩
  rw [State.idleOk, shadowOk_finish_other hrun]
  exact h

/-- At idle and not READY there is no valid calibration and no valid fine temperature (R35). -/
theorem not_valid_of_idleOk {s : State} (h : s.idleOk = true) (hlife : s.life ≠ .ready) :
    s.calValid = false ∧ s.tfineValid = false := by
  obtain ⟨hcal, hfine, -⟩ := (idleOk_iff s).mp h
  exact ⟨Bool.eq_false_iff.mpr fun hv => hlife (hcal.mpr hv), Bool.eq_false_iff.mpr fun hv => hlife (hfine hv)⟩

theorem readyOk_of_idleOk {s : State} (h : s.idleOk = true) (hlife : s.life = .ready) : s.readyOk = true := by
  obtain ⟨hcal, -, -⟩ := (idleOk_iff s).mp h
  simp [State.readyOk, hlife, hcal.mp hlife]

/-! #### A statement that waits, and the first statement -/

/-- The checks of a readout answer, or take one of its positions. -/
theorem readoutEntry_next (fresh : Bool) {temp own : Seq} (htemp : temp ≠ .idle) (hown : own ≠ .idle) (s : State) :
    ∃ t, readoutEntry fresh temp own s = .next t ∧ (t.seq ≠ .idle ∨ t.busy = false) := by
  unfold readoutEntry
  split
  · exact ⟨_, rfl, .inr rfl⟩
  · split
    · exact ⟨_, rfl, .inl htemp⟩
    · split
      · exact ⟨_, rfl, .inr rfl⟩
      · exact ⟨_, rfl, .inl hown⟩

/-- The first statement of a command neither stops the machine nor waits: it answers or takes a position (R278). -/
theorem exec_entry_next {s : State} (hs : s.seq = .idle) (i : Instr) :
    ∃ t, exec i s = .next t ∧ (t.seq ≠ .idle ∨ t.busy = false) := by
  cases i with
  | init =>
    simp only [exec, execInit, hs, initEntry]
    split
    · exact ⟨_, rfl, .inr rfl⟩
    · exact ⟨_, rfl, .inl nofun⟩
  | configure md ot opr oh flt sb =>
    simp only [exec, execConfigure, configureStep, hs]
    split
    · exact ⟨_, rfl, .inr rfl⟩
    · exact ⟨_, rfl, .inl nofun⟩
  | readT =>
    simp only [exec, execReadT, hs]
    split
    · exact ⟨_, rfl, .inr rfl⟩
    · exact ⟨_, rfl, .inl nofun⟩
  | readP f => simpa only [exec, execReadP, hs] using
    readoutEntry_next f (temp := .readP .temp) (own := .readP .press) nofun nofun s
  | readH f => simpa only [exec, execReadH, hs] using
    readoutEntry_next f (temp := .readH .temp) (own := .readH .hum) nofun nofun s

/-- A statement that waits leaves the command where it stands. -/
theorem State.Executing.lands_waiting {i : Instr} {s : State} (h : s.Executing i) (he : exec i s = .next s) :
    Lands i s := by
  obtain hidle | hfits := h.position
  · obtain ⟨t, ht, hmoved⟩ := exec_entry_next hidle i
    obtain rfl : s = t := by simpa [he] using ht
    simp [hidle, h.busy] at hmoved
  · exact .inl ⟨hfits, h.validity⟩

/-! #### INIT -/

theorem lands_initFail {e : ErrorKind} {info : Word} {u : State} : Lands .init (initFail e info u) :=
  lands_finish_notReady (u := initFailEffects e u) nofun rfl rfl

theorem init_lands {s t : State} (h : s.Executing .init) (hlimit : 0 < s.calPollLimit)
    (he : exec .init s = .next t) : Lands .init t := by
  apply init_next_elim s t he
  case waits => rintro rfl; exact h.lands_waiting he
  case rejected =>
    intro hs _
    exact lands_finish_idleOk (h.running_other nofun (.none rfl)) (h.validityAt hs)
  case entry => intro hs hlife; exact .inl ⟨rfl, by simp [State.validityOk, State.initOk, hlife]⟩
  case readNacked | writeNacked | wrongDevice | pollTimeout => intros; exact lands_initFail
  case idRight => intro rest hs; exact .inl ⟨rfl, h.validityAt hs⟩
  case resetWritten => intro rest k hs; exact .inl ⟨rfl, h.validityAt hs⟩
  case resetSettled =>
    intro k hs
    exact .inl ⟨rfl, by simpa [State.validityOk, State.initOk, hlimit] using h.validityAt hs⟩
  case pollClear =>
    intro rest st hs _
    have hv := h.validityAt hs
    simp only [State.validityOk, State.initOk, Bool.and_eq_true] at hv
    exact .inl ⟨rfl, by simp [State.validityOk, State.initOk, hv]⟩
  case pollBusy =>
    intro rest st hs _ hne
    have hv := h.validityAt hs
    simp only [State.validityOk, State.initOk, Bool.and_eq_true, decide_eq_true_eq] at hv
    obtain ⟨hfine, hbits, hpolls⟩ := hv
    have hlt : s.polls + 1 < s.calPollLimit := Nat.lt_of_le_of_ne hpolls hne
    exact .inl ⟨rfl, by simp [State.validityOk, State.initOk, hfine, hbits, hlt]⟩
  case pollWaited => intro k hs; exact .inl ⟨rfl, h.validityAt hs⟩
  case rowLoaded => intro r r' rest b0 b1 b2 hs _; exact .inl ⟨rfl, h.validityAt hs⟩
  case lastRowLoaded =>
    intro rest b0 b1 b2 hs
    have hv := h.validityAt hs
    simp only [State.validityOk, State.initOk, Bool.and_eq_true] at hv
    exact .inl ⟨rfl, by simp [State.validityOk, State.initOk, hv]⟩
  case defaultWritten => intro w w' rest k _ hs; exact .inl ⟨rfl, h.validityAt hs⟩
  case lastDefaultWritten =>
    intro rest k hs
    have hv := h.validityAt hs
    simp only [State.validityOk, State.initOk, Bool.and_eq_true] at hv
    exact .inl ⟨rfl, by simp [State.validityOk, State.initOk, hv]⟩
  case settled =>
    intro k hs
    have hv := h.validityAt hs
    simp only [State.validityOk, State.initOk, Bool.and_eq_true] at hv
    exact .inl ⟨rfl, by simp [State.validityOk, State.initOk, hv]⟩
  case responds =>
    intro hs
    have hv := h.validityAt hs
    simp only [State.validityOk, State.initOk, Bool.and_eq_true] at hv
    exact lands_finish_ready (by simp [State.readyOk, hv]) (shadowOk_finish_of_cfgValid (by simp [hv]))

/-! #### CONFIGURE -/

/-- A failed write ends CONFIGURE with TransportError, which the record keeps (R186, R35). -/
theorem configure_lands_nack {md : BitVec 2} {ot opr oh flt sb : BitVec 3} {s u : State} {info : Word}
    (h : s.Executing (.configure md ot opr oh flt sb)) (hport : AtMostOnePortEvent s u) (hready : u.readyOk = true) :
    Lands (.configure md ot opr oh flt sb) (raise .transportError info u) := by
  refine lands_finish_ready hready ?_
  rw [State.shadowOk, configureLog_finish_configure _ (h.running_configure hport)]
  simp [ErrorKind.code]

theorem configure_lands {md : BitVec 2} {ot opr oh flt sb : BitVec 3} {s t : State}
    (h : s.Executing (.configure md ot opr oh flt sb)) (he : exec (.configure md ot opr oh flt sb) s = .next t) :
    Lands (.configure md ot opr oh flt sb) t := by
  apply configure_next_elim _ _ _ _ _ _ s t he _ rfl
  case waits => rintro rfl; exact h.lands_waiting he
  case notReady =>
    intro hs hlife
    obtain ⟨hcal, hfine⟩ := not_valid_of_idleOk (h.validityAt hs) hlife
    exact lands_finish_notReady hlife hcal hfine
  case entry =>
    intro hs hlife
    have hready : s.readyOk = true := readyOk_of_idleOk (h.validityAt hs) hlife
    exact .inl ⟨rfl, by simpa [State.validityOk, State.readyOk] using hready⟩
  case nacked =>
    intro w rest hs
    have hv := h.validityAt hs
    simp only [State.validityOk, Bool.and_eq_true] at hv
    obtain ⟨⟨hready, -⟩, -⟩ := hv
    exact configure_lands_nack h (.one _ rfl rfl) hready
  case written => intro w w' rest k _ hs; exact .inl ⟨rfl, h.validityAt hs⟩
  case lastWritten =>
    intro rest k hs
    have hv := h.validityAt hs
    simp only [State.validityOk, State.readyOk, Bool.and_eq_true] at hv
    exact .inl ⟨rfl, by simp [State.validityOk, State.readyOk, hv]⟩
  case responds =>
    intro hs
    have hv := h.validityAt hs
    simp only [State.validityOk, Bool.and_eq_true] at hv
    exact lands_finish_ready hv.1.1 (shadowOk_finish_of_cfgValid hv.2)

/-! #### The readouts -/

/-- What holds of the validity bits at every position of a readout (R275, R35). -/
def State.readoutOk (s : State) : Bool := s.readyOk && s.shadowOk

theorem readoutOk_of_idleOk {s : State} (h : s.idleOk = true) (hlife : s.life = .ready) : s.readoutOk = true := by
  obtain ⟨-, -, hshadow⟩ := (idleOk_iff s).mp h
  simp [State.readoutOk, readyOk_of_idleOk h hlife, hshadow hlife]

theorem idleOk_of_readoutOk {s : State} (h : s.readoutOk = true) : s.idleOk = true := by
  simp only [State.readoutOk, State.readyOk, Bool.and_eq_true, beq_iff_eq] at h
  exact (idleOk_iff s).mpr (by simp [h])

theorem AtMostOnePortEvent.readoutOk {s t : State} (hport : AtMostOnePortEvent s t) (hlife : t.life = s.life)
    (hcal : t.calValid = s.calValid) (hcfg : t.cfgValid = s.cfgValid) (h : s.readoutOk = true) :
    t.readoutOk = true := by
  rw [State.readoutOk, State.readyOk, State.shadowOk, hlife, hcal, hcfg, hport.configureLog_eq]
  exact h

/-- A failed read ends a readout with TransportError (R248). -/
theorem readout_lands_nack {i : Instr} {s u : State} {info : Word} (h : s.Executing i)
    (hi : ∀ md ot opr oh flt sb, i ≠ .configure md ot opr oh flt sb) (hok : s.readoutOk = true)
    (hport : AtMostOnePortEvent s u) (hlife : u.life = s.life) (hcal : u.calValid = s.calValid)
    (hcfg : u.cfgValid = s.cfgValid) : Lands i (raise .transportError info u) :=
  lands_finish_idleOk (h.running_other hi hport) (idleOk_of_readoutOk (hport.readoutOk hlife hcal hcfg hok))

theorem readT_lands {s t : State} (h : s.Executing .readT) (he : exec .readT s = .next t) : Lands .readT t := by
  apply readT_next_elim s t he
  case waits => rintro rfl; exact h.lands_waiting he
  case notReady =>
    intro hs _
    exact lands_finish_idleOk (h.running_other nofun (.none rfl)) (h.validityAt hs)
  case entry =>
    intro hs hlife
    exact .inl ⟨rfl, readoutOk_of_idleOk (h.validityAt hs) hlife⟩
  case nacked =>
    intro rest hs
    exact readout_lands_nack h nofun (h.validityAt hs) (.one _ rfl rfl) rfl rfl rfl
  case converted =>
    intro rest b0 b1 b2 v f tf se hs _
    exact .inl ⟨rfl, (AtMostOnePortEvent.one (s := s) _ rfl rfl).readoutOk rfl rfl rfl (h.validityAt hs)⟩
  case responds =>
    intro hs
    exact lands_finish_idleOk (h.running_other nofun (.none rfl)) (idleOk_of_readoutOk (h.validityAt hs))

theorem readP_lands {fresh : Bool} {s t : State} (h : s.Executing (.readP fresh))
    (he : exec (.readP fresh) s = .next t) : Lands (.readP fresh) t := by
  apply readP_next_elim fresh s t he
  case waits => rintro rfl; exact h.lands_waiting he
  case notReady =>
    intro hs _
    exact lands_finish_idleOk (h.running_other nofun (.none rfl)) (h.validityAt hs)
  case stale =>
    intro hs _ _
    exact lands_finish_idleOk (h.running_other nofun (.none rfl)) (h.validityAt hs)
  case entryFresh =>
    intro hs hlife hfresh
    exact .inl ⟨hfresh, readoutOk_of_idleOk (h.validityAt hs) hlife⟩
  case entry =>
    intro hs hlife _ hfine
    exact .inl ⟨rfl, Bool.and_eq_true_iff.mpr ⟨readoutOk_of_idleOk (h.validityAt hs) hlife, hfine⟩⟩
  case nackedT =>
    intro rest hs
    exact readout_lands_nack h nofun (h.validityAt hs) (.one _ rfl rfl) rfl rfl rfl
  case convertedT =>
    intro rest b0 b1 b2 tf se hs _
    refine .inl ⟨rfl, Bool.and_eq_true_iff.mpr ⟨?_, rfl⟩⟩
    exact (AtMostOnePortEvent.one (s := s) _ rfl rfl).readoutOk rfl rfl rfl (h.validityAt hs)
  case nacked =>
    intro rest hs
    obtain ⟨hok, -⟩ := Bool.and_eq_true_iff.mp (h.validityAt hs)
    exact readout_lands_nack h nofun hok (.one _ rfl rfl) rfl rfl rfl
  case converted =>
    intro rest b0 b1 b2 v f hs _ _
    obtain ⟨hok, -⟩ := Bool.and_eq_true_iff.mp (h.validityAt hs)
    exact .inl ⟨rfl, (AtMostOnePortEvent.one (s := s) _ rfl rfl).readoutOk rfl rfl rfl hok⟩
  case responds =>
    intro hs
    exact lands_finish_idleOk (h.running_other nofun (.none rfl)) (idleOk_of_readoutOk (h.validityAt hs))

theorem readH_lands {fresh : Bool} {s t : State} (h : s.Executing (.readH fresh))
    (he : exec (.readH fresh) s = .next t) : Lands (.readH fresh) t := by
  apply readH_next_elim fresh s t he
  case waits => rintro rfl; exact h.lands_waiting he
  case notReady =>
    intro hs _
    exact lands_finish_idleOk (h.running_other nofun (.none rfl)) (h.validityAt hs)
  case stale =>
    intro hs _ _
    exact lands_finish_idleOk (h.running_other nofun (.none rfl)) (h.validityAt hs)
  case entryFresh =>
    intro hs hlife hfresh
    exact .inl ⟨hfresh, readoutOk_of_idleOk (h.validityAt hs) hlife⟩
  case entry =>
    intro hs hlife _ hfine
    exact .inl ⟨rfl, Bool.and_eq_true_iff.mpr ⟨readoutOk_of_idleOk (h.validityAt hs) hlife, hfine⟩⟩
  case nackedT =>
    intro rest hs
    exact readout_lands_nack h nofun (h.validityAt hs) (.one _ rfl rfl) rfl rfl rfl
  case convertedT =>
    intro rest b0 b1 b2 tf se hs _
    refine .inl ⟨rfl, Bool.and_eq_true_iff.mpr ⟨?_, rfl⟩⟩
    exact (AtMostOnePortEvent.one (s := s) _ rfl rfl).readoutOk rfl rfl rfl (h.validityAt hs)
  case nacked =>
    intro rest hs
    obtain ⟨hok, -⟩ := Bool.and_eq_true_iff.mp (h.validityAt hs)
    exact readout_lands_nack h nofun hok (.one _ rfl rfl) rfl rfl rfl
  case converted =>
    intro rest b0 b1 v f hs _ _
    obtain ⟨hok, -⟩ := Bool.and_eq_true_iff.mp (h.validityAt hs)
    exact .inl ⟨rfl, (AtMostOnePortEvent.one (s := s) _ rfl rfl).readoutOk rfl rfl rfl hok⟩
  case responds =>
    intro hs
    exact lands_finish_idleOk (h.running_other nofun (.none rfl)) (idleOk_of_readoutOk (h.validityAt hs))

/-! ### The step -/

/-- A statement of the running command keeps the invariant. -/
theorem exec_inv {i : Instr} {s t : State} (h : s.Executing i) (hregs : s.RegistersOk) (he : exec i s = .next t) :
    t.Inv := by
  have hlands : Lands i t := by
    cases i with
    | init => exact init_lands h hregs.limit.1 he
    | configure => exact configure_lands h he
    | readT => exact readT_lands h he
    | readP => exact readP_lands h he
    | readH => exact readH_lands h he
  exact (h.controlInv_of_lands he hlands).inv (exec_keeps_registers hregs he)

/-- A block that is not busy is idle, with the validity bits of idle. -/
theorem State.Inv.idle {s : State} (h : s.Inv) (hbusy : s.busy = false) : s.seq = .idle ∧ s.idleOk = true := by
  have hcontrol := h.control
  have hvalid := h.validity
  simp only [State.controlOk, hbusy, Bool.false_eq_true, if_false, beq_iff_eq] at hcontrol
  simp only [State.validityOk, hcontrol] at hvalid
  exact ⟨hcontrol, hvalid⟩

/-- A busy block runs the command in CMD. -/
theorem State.Inv.executing {s : State} (h : s.Inv) (hbusy : s.busy = true) : ∃ i, s.Executing i := by
  have hcontrol := h.control
  simp only [State.controlOk, hbusy, if_true] at hcontrol
  split at hcontrol
  · next i hw =>
    exact ⟨i, hw, hbusy, .inr hcontrol, h.validity, by rw [h.record, isConfigure_of_seqFits hw hcontrol]⟩
  · cases hcontrol

/-- Accepting a word tells the record whether a CONFIGURE runs now, and nothing of the last one. -/
theorem configureLog_accept (w : Word) (rest : List Word) (s : State) :
    configureLog (accept w rest s).events = { configureLog s.events with running := isConfigure w } := by
  rw [accept_events, configureLog_append]; rfl

theorem idleOk_accept {w : Word} {rest : List Word} {s : State} (h : s.idleOk = true) :
    (accept w rest s).idleOk = true := by
  rw [State.idleOk, State.shadowOk, configureLog_accept]
  exact h

theorem State.RegistersOk.accept {w : Word} {rest : List Word} {s : State} (h : s.RegistersOk) :
    (accept w rest s).RegistersOk := h.of_same rfl rfl rfl rfl rfl h.memory

/-- The command of an accepted word runs. -/
theorem State.Inv.executing_accept {w : Word} {rest : List Word} {i : Instr} {s : State} (h : s.Inv)
    (hbusy : s.busy = false) (hw : decode w = .command i) : (accept w rest s).Executing i := by
  obtain ⟨-, hidle⟩ := h.idle hbusy
  exact ⟨hw, rfl, .inl rfl, idleOk_accept hidle, by rw [configureLog_accept]; rfl⟩

/-- An illegal word is answered, and no CONFIGURE has run (R274). -/
theorem State.Inv.illegal {w : Word} {rest : List Word} {why : IllegalReason} {s : State} (h : s.Inv)
    (hbusy : s.busy = false) (hw : decode w = .illegal why) : (raise .illegalCommand w (accept w rest s)).Inv := by
  obtain ⟨-, hidle⟩ := h.idle hbusy
  have hrun : (configureLog (accept w rest s).events).running = false := by
    rw [configureLog_accept]; simp [isConfigure, hw]
  have hidle' : (raise .illegalCommand w (accept w rest s)).idleOk = true := by
    rw [State.idleOk, raise, shadowOk_finish_other hrun]
    exact idleOk_accept hidle
  exact (controlInv_finish hidle').inv h.registersOk.accept.raise

/-- A block reset gives a state that meets the invariant, whatever the state before (R300; log 6). -/
theorem blockReset_inv {s : State} (hlimit : 0 < s.calPollLimit ∧ s.calPollLimit < 2 ^ 32)
    (hmemory : Memory.wf s.dev.regs = true) : (blockReset s).Inv := by
  have hnibbles : in12 Cal.zero.h4 = true ∧ in12 Cal.zero.h5 = true := by decide
  exact ⟨rfl, rfl, by simp [State.reset], rfl, hnibbles, by simp [State.reset], hlimit, hmemory⟩

theorem deviceMove_inv {s : State} (h : s.Inv) (m : DeviceMove) (rest : List BusItem) : (deviceMove m rest s).Inv :=
  ⟨h.control, h.validity, h.failed, h.record, h.nibbles, h.codes, h.limit, device_move_wf s.dev m h.memory⟩

/-- Settles O47, by whose move the step is. -/
theorem stepKeepsInv : Obligations.StepKeepsInv := by
  unfold Obligations.StepKeepsInv
  intro s t h he
  obtain ⟨-, hstep⟩ | ⟨m, rest, -, -, hstep⟩ | ⟨-, -, -, hstep⟩ | ⟨w, rest, -, hbusy, -, hstep⟩ | ⟨-, hbusy, hstep⟩ :=
    step_cases s
  · rw [hstep] at he; cases he
    exact blockReset_inv h.limit h.memory
  · rw [hstep] at he; cases he
    exact deviceMove_inv h m rest
  · rw [hstep] at he; cases he
    exact h
  · rw [hstep, acceptStep] at he
    cases hw : decode w with
    | illegal why => simp only [hw] at he; cases he; exact h.illegal hbusy hw
    | command i => simp only [hw] at he; exact exec_inv (h.executing_accept hbusy hw) h.registersOk.accept he
  · obtain ⟨i, hexec⟩ := h.executing hbusy
    rw [hstep, continueStep, hexec.word] at he
    exact exec_inv hexec h.registersOk he

/-! ### After reset -/

/-- The parameter the implementation gives is a positive number of 32 bits (R7; log 9). -/
theorem calPollLimit_range : 0 < Config.calPollLimit ∧ Config.calPollLimit < 2 ^ 32 := by
  unfold Config.calPollLimit
  split
  · decide
  · next hne =>
    exact ⟨Nat.pos_of_ne_zero fun h => hne (BitVec.eq_of_toNat_eq h), BitVec.isLt _⟩

/-- Settles O46: the state after reset is a block reset of itself; its record of events is empty. -/
theorem resetMeetsInvariants : Obligations.ResetMeetsInvariants :=
  ⟨blockReset_inv (s := State.reset) calPollLimit_range rfl, ⟨rfl, by decide, rfl⟩, rfl⟩

end Sys2Proof.Machine
end

section
/-! PROOF. The fault `UnwrittenRead` (spec/10_state.md R33), and that no step from a state that meets the invariant
is a fault. -/

namespace Sys2Proof.Machine

/-! ### What each conversion gives without a readable register -/

/-- A transaction changes neither what CAL nor what TFINE reads as. -/
theorem readCal_afterRead (e : Event) (rest : List BusItem) (s : State) :
    readCal (logEvent e { s with busQueue := rest }) = readCal s := rfl
theorem readTFine_afterRead (e : Event) (rest : List BusItem) (s : State) :
    readTFine (logEvent e { s with busQueue := rest }) = readTFine s := rfl

section
variable {s : State} {a : BusAnswer} {rest : List BusItem} {x : Byte × Byte × Byte}

theorem refreshT_unwrittenCal (caller : S32 → Bool → State → State) (hq : s.busQueue = .answer a :: rest)
    (hx : a.bytes s.dev Config.regTemp = some x) (hcal : s.calValid = false) :
    refreshT caller s = .fault (.unwrittenRead .cal) := by
  simp only [refreshT, memRead_ack hq hx, readCal_afterRead, readCal_invalid hcal]

theorem convertP_unwrittenCal (hq : s.busQueue = .answer a :: rest) (hx : a.bytes s.dev Config.regPress = some x)
    (hcal : s.calValid = false) : convertP s = .fault (.unwrittenRead .cal) := by
  simp only [convertP, memRead_ack hq hx, readCal_afterRead, readCal_invalid hcal]

theorem convertP_unwrittenTFine (hq : s.busQueue = .answer a :: rest) (hx : a.bytes s.dev Config.regPress = some x)
    (hcal : s.calValid = true) (hfine : s.tfineValid = false) : convertP s = .fault (.unwrittenRead .tfine) := by
  simp only [convertP, memRead_ack hq hx, readCal_afterRead, readTFine_afterRead, readCal_valid hcal,
    readTFine_invalid hfine]

theorem convertH_unwrittenCal (hq : s.busQueue = .answer a :: rest) (hx : a.bytes s.dev Config.regHum = some x)
    (hcal : s.calValid = false) : convertH s = .fault (.unwrittenRead .cal) := by
  simp only [convertH, memRead_ack hq hx, readCal_afterRead, readCal_invalid hcal]

theorem convertH_unwrittenTFine (hq : s.busQueue = .answer a :: rest) (hx : a.bytes s.dev Config.regHum = some x)
    (hcal : s.calValid = true) (hfine : s.tfineValid = false) : convertH s = .fault (.unwrittenRead .tfine) := by
  simp only [convertH, memRead_ack hq hx, readCal_afterRead, readTFine_afterRead, readCal_valid hcal,
    readTFine_invalid hfine]

end

/-! ### A conversion with readable registers goes on -/

theorem refreshT_next {caller : S32 → Bool → State → State} {s : State} (hcal : s.calValid = true) :
    ∃ t, refreshT caller s = .next t := by
  obtain ⟨-, h⟩ | ⟨a, rest, -, ⟨-, h⟩ | ⟨b0, b1, b2, -, ⟨hno, -⟩ | ⟨-, h⟩⟩⟩ := refreshT_cases caller s
  · exact ⟨_, h⟩
  · exact ⟨_, h⟩
  · rw [hcal] at hno; cases hno
  · exact ⟨_, h⟩

theorem convertP_next {s : State} (hcal : s.calValid = true) (hfine : s.tfineValid = true) :
    ∃ t, convertP s = .next t := by
  unfold convertP
  obtain ⟨-, h⟩ | ⟨a, rest, -, ⟨-, h⟩ | ⟨b0, b1, b2, -, h⟩⟩ := memRead_cases Config.regPress 3 s
  · simp only [h]; exact ⟨_, rfl⟩
  · simp only [h]; exact ⟨_, rfl⟩
  · simp only [h, readCal_afterRead, readTFine_afterRead, readCal_valid hcal, readTFine_valid hfine]; exact ⟨_, rfl⟩

theorem convertH_next {s : State} (hcal : s.calValid = true) (hfine : s.tfineValid = true) :
    ∃ t, convertH s = .next t := by
  unfold convertH
  obtain ⟨-, h⟩ | ⟨a, rest, -, ⟨-, h⟩ | ⟨b0, b1, b2, -, h⟩⟩ := memRead_cases Config.regHum 2 s
  · simp only [h]; exact ⟨_, rfl⟩
  · simp only [h]; exact ⟨_, rfl⟩
  · simp only [h, readCal_afterRead, readTFine_afterRead, readCal_valid hcal, readTFine_valid hfine]; exact ⟨_, rfl⟩

/-! ### A statement at a position of its command goes on -/

/-- INIT reads no register that R33 guards: it goes on from each of its positions. -/
theorem initAt_next (p : InitPos) (s : State) : ∃ t, initAt p s = .next t := by
  cases p with
  | checkId =>
    simp only [initAt, initCheckId]
    split
    · exact ⟨_, rfl⟩
    · exact ⟨_, rfl⟩
    · split <;> exact ⟨_, rfl⟩
  | reset => simp only [initAt, initReset]; split <;> exact ⟨_, rfl⟩
  | resetSettle => simp only [initAt, initResetSettle]; split <;> exact ⟨_, rfl⟩
  | poll =>
    simp only [initAt, initPoll]
    split
    · exact ⟨_, rfl⟩
    · exact ⟨_, rfl⟩
    · split <;> exact ⟨_, rfl⟩
  | pollWait => simp only [initAt, initPollWait]; split <;> exact ⟨_, rfl⟩
  | loadCal r =>
    simp only [initAt, initLoadCal]
    split
    · exact ⟨_, rfl⟩
    · exact ⟨_, rfl⟩
    · split <;> exact ⟨_, rfl⟩
  | applyDefault w =>
    simp only [initAt, initApplyDefault]
    split
    · exact ⟨_, rfl⟩
    · exact ⟨_, rfl⟩
    · split <;> exact ⟨_, rfl⟩
  | finalSettle => simp only [initAt, initFinalSettle]; split <;> exact ⟨_, rfl⟩
  | respond => exact ⟨_, rfl⟩

theorem configureStep_next {c : SamplingConfig} {s : State} {p : ConfigurePos} (hs : s.seq = .configure p) :
    ∃ t, configureStep c s = .next t := by
  cases p with
  | write w =>
    simp only [configureStep, hs]
    split
    · exact ⟨_, rfl⟩
    · exact ⟨_, rfl⟩
    · split <;> exact ⟨_, rfl⟩
  | respond => simp only [configureStep, hs]; exact ⟨_, rfl⟩

theorem calValid_of_readoutOk {s : State} (h : s.readoutOk = true) : s.calValid = true := by
  simp only [State.readoutOk, State.readyOk, Bool.and_eq_true] at h
  exact h.1.2

/-- Where a readout reads its own channel, both registers that R33 guards are readable. -/
theorem readable_of_readoutOk {s : State} (h : (s.readoutOk && s.tfineValid) = true) :
    s.calValid = true ∧ s.tfineValid = true := by
  obtain ⟨hok, hfine⟩ := Bool.and_eq_true_iff.mp h
  exact ⟨calValid_of_readoutOk hok, hfine⟩

theorem execReadT_next {s : State} (h : s.Executing .readT) {p : ReadTPos} (hs : s.seq = .readT p) :
    ∃ t, execReadT s = .next t := by
  cases p with
  | temp =>
    have hok : s.readoutOk = true := h.validityAt hs
    simp only [execReadT, hs]
    exact refreshT_next (calValid_of_readoutOk hok)
  | respond => simp only [execReadT, hs]; exact ⟨_, rfl⟩

theorem execReadP_next {fresh : Bool} {s : State} (h : s.Executing (.readP fresh)) {p : ReadPPos}
    (hs : s.seq = .readP p) : ∃ t, execReadP fresh s = .next t := by
  cases p with
  | temp =>
    have hok : s.readoutOk = true := h.validityAt hs
    simp only [execReadP, hs]
    exact refreshT_next (calValid_of_readoutOk hok)
  | press =>
    obtain ⟨hcal, hfine⟩ := readable_of_readoutOk (s := s) (h.validityAt hs)
    simp only [execReadP, hs]
    exact convertP_next hcal hfine
  | respond => simp only [execReadP, hs]; exact ⟨_, rfl⟩

theorem execReadH_next {fresh : Bool} {s : State} (h : s.Executing (.readH fresh)) {p : ReadHPos}
    (hs : s.seq = .readH p) : ∃ t, execReadH fresh s = .next t := by
  cases p with
  | temp =>
    have hok : s.readoutOk = true := h.validityAt hs
    simp only [execReadH, hs]
    exact refreshT_next (calValid_of_readoutOk hok)
  | hum =>
    obtain ⟨hcal, hfine⟩ := readable_of_readoutOk (s := s) (h.validityAt hs)
    simp only [execReadH, hs]
    exact convertH_next hcal hfine
  | respond => simp only [execReadH, hs]; exact ⟨_, rfl⟩

/-- The position of a running command is one of its own family. -/
theorem exec_next_of_seqFits {i : Instr} {s : State} (h : s.Executing i) (hfits : seqFits i s.seq = true) :
    ∃ t, exec i s = .next t := by
  cases i with
  | init =>
    cases hs : s.seq with
    | init p => simp only [exec, execInit, hs]; exact initAt_next p s
    | _ => rw [hs] at hfits; cases hfits
  | configure md ot opr oh flt sb =>
    cases hs : s.seq with
    | configure p => exact configureStep_next hs
    | _ => rw [hs] at hfits; cases hfits
  | readT =>
    cases hs : s.seq with
    | readT p => exact execReadT_next h hs
    | _ => rw [hs] at hfits; cases hfits
  | readP fresh =>
    cases hs : s.seq with
    | readP p => exact execReadP_next h hs
    | _ => rw [hs] at hfits; cases hfits
  | readH fresh =>
    cases hs : s.seq with
    | readH p => exact execReadH_next h hs
    | _ => rw [hs] at hfits; cases hfits

theorem State.Executing.exec_next {i : Instr} {s : State} (h : s.Executing i) : ∃ t, exec i s = .next t := by
  obtain hidle | hfits := h.position
  · obtain ⟨t, ht, -⟩ := exec_entry_next hidle i
    exact ⟨t, ht⟩
  · exact exec_next_of_seqFits h hfits

/-- From a state that meets the invariant the step answers a next state, whosever move it is. -/
theorem State.Inv.step_next {s : State} (h : s.Inv) : ∃ t, step s = .next t := by
  obtain ⟨-, hstep⟩ | ⟨m, rest, -, -, hstep⟩ | ⟨-, -, -, hstep⟩ | ⟨w, rest, -, hbusy, -, hstep⟩ | ⟨-, hbusy, hstep⟩ :=
    step_cases s
  · exact ⟨_, hstep⟩
  · exact ⟨_, hstep⟩
  · exact ⟨_, hstep⟩
  · rw [hstep, acceptStep]
    cases hw : decode w with
    | illegal why => exact ⟨_, rfl⟩
    | command i => exact (h.executing_accept hbusy hw).exec_next
  · obtain ⟨i, hexec⟩ := h.executing hbusy
    rw [hstep, continueStep, hexec.word]
    exact hexec.exec_next

/-- Settles O48: the conversions one by one, and the step from the invariant. -/
theorem noRunFaults : Obligations.NoRunFaults := by
  unfold Obligations.NoRunFaults
  refine ⟨fun s a rest x hq => ⟨fun hx hcal => ⟨fun hs => ?_, fun hs f => ?_, fun hs f => ?_⟩,
    fun hx hs f => ⟨fun hcal => ?_, fun hcal hfine => ?_⟩, fun hx hs f => ⟨fun hcal => ?_, fun hcal hfine => ?_⟩⟩,
    fun s h => h.step_next⟩
  · simpa only [exec, execReadT, hs] using refreshT_unwrittenCal _ hq hx hcal
  · simpa only [exec, execReadP, hs] using refreshT_unwrittenCal _ hq hx hcal
  · simpa only [exec, execReadH, hs] using refreshT_unwrittenCal _ hq hx hcal
  · simpa only [exec, execReadP, hs] using convertP_unwrittenCal hq hx hcal
  · simpa only [exec, execReadP, hs] using convertP_unwrittenTFine hq hx hcal hfine
  · simpa only [exec, execReadH, hs] using convertH_unwrittenCal hq hx hcal
  · simpa only [exec, execReadH, hs] using convertH_unwrittenTFine hq hx hcal hfine

end Sys2Proof.Machine
end

section
/-! PROOF. A canonical register space is determined by what it reads (spec/20_memory.md R60): an address below the
first cell reads its reset value, which no cell holds, so two first cells stand at the same address. -/

namespace Sys2Proof.Machine

theorem memory_wfFrom_cons {lo k : Nat} {x : Byte} {rest : List Host.Cell} :
    Memory.wfFrom lo ((k, x) :: rest) = true ↔
      lo ≤ k ∧ k < 256 ∧ x ≠ resetByte k ∧ Memory.wfFrom (k + 1) rest = true := by
  simp only [Memory.wfFrom, Bool.and_eq_true, decide_eq_true_eq, and_assoc]

theorem memory_read_head (k : Nat) (x : Byte) (rest : List Host.Cell) : Memory.read ((k, x) :: rest) k = x :=
  if_pos rfl

theorem memory_read_tail {k a : Nat} (h : k ≠ a) (x : Byte) (rest : List Host.Cell) :
    Memory.read ((k, x) :: rest) a = Memory.read rest a := if_neg h

/-- An address below the bound of a canonical list is not listed. -/
theorem memory_read_below {m : List Host.Cell} {lo a : Nat} (h : Memory.wfFrom lo m = true) (ha : a < lo) :
    Memory.read m a = resetByte a := by
  induction m generalizing lo with
  | nil => rfl
  | cons c rest ih =>
    obtain ⟨k, x⟩ := c
    obtain ⟨hlo, -, -, hrest⟩ := memory_wfFrom_cons.mp h
    rw [memory_read_tail (by omega), ih hrest (by omega)]

/-- A canonical list that reads a byte other than the reset value at `a` begins at `a` or below. -/
theorem memory_head_le {lo k a : Nat} {x : Byte} {rest : List Host.Cell}
    (h : Memory.wfFrom lo ((k, x) :: rest) = true) (ha : Memory.read ((k, x) :: rest) a ≠ resetByte a) : k ≤ a := by
  obtain ⟨-, hk, hx, hrest⟩ := memory_wfFrom_cons.mp h
  by_contra hlt
  exact ha (memory_read_below (memory_wfFrom_cons.mpr ⟨le_refl k, hk, hx, hrest⟩) (by omega))

/-- Only the empty list reads the reset value everywhere. -/
theorem memory_eq_nil {m : List Host.Cell} {lo : Nat} (h : Memory.wfFrom lo m = true)
    (hread : ∀ a, Memory.read m a = resetByte a) : m = [] := by
  cases m with
  | nil => rfl
  | cons c rest =>
    obtain ⟨k, x⟩ := c
    obtain ⟨-, -, hx, -⟩ := memory_wfFrom_cons.mp h
    exact absurd ((memory_read_head k x rest).symm.trans (hread k)) hx

/-- Canonical lists that read the same are equal, from any two bounds. -/
theorem memory_ext {m m' : List Host.Cell} {lo lo' : Nat} (h : Memory.wfFrom lo m = true)
    (h' : Memory.wfFrom lo' m' = true) (hread : ∀ a, Memory.read m a = Memory.read m' a) : m = m' := by
  induction m generalizing m' lo lo' with
  | nil => exact (memory_eq_nil h' fun a => (hread a).symm).symm
  | cons c rest ih =>
    cases m' with
    | nil => exact memory_eq_nil h hread
    | cons c' rest' =>
      obtain ⟨k, x⟩ := c
      obtain ⟨k', x'⟩ := c'
      obtain ⟨-, -, hx, hrest⟩ := memory_wfFrom_cons.mp h
      obtain ⟨-, -, hx', hrest'⟩ := memory_wfFrom_cons.mp h'
      have hle : k' ≤ k := memory_head_le h' (by rwa [← hread, memory_read_head])
      have hge : k ≤ k' := memory_head_le h (by rwa [hread, memory_read_head])
      obtain rfl : k = k' := le_antisymm hge hle
      obtain rfl : x = x' := by
        have := hread k
        rwa [memory_read_head, memory_read_head] at this
      have htails : ∀ a, Memory.read rest a = Memory.read rest' a := by
        intro a
        by_cases ha : k = a
        · rw [memory_read_below hrest (by omega), memory_read_below hrest' (by omega)]
        · have := hread a
          rwa [memory_read_tail ha, memory_read_tail ha] at this
      rw [ih hrest hrest' htails]

/-- Settles O54. -/
theorem canonicalMemoriesAreEqual : Obligations.CanonicalMemoriesAreEqual := by
  unfold Obligations.CanonicalMemoriesAreEqual
  exact fun _ _ h h' hread => memory_ext h h' hread

end Sys2Proof.Machine
end

section
/-! PROOF. What writes, moves and steps leave in the reference device (spec/20_memory.md R60 to R69, R82 to R85):
one rule for everything a write can do, and from it the humidity latch, the soft reset and the calibration bytes. -/

namespace Sys2Proof.Machine

/-! ### What a bus read gives -/

theorem isData_range {a : Nat} (h : isData a = true) : 0xF7 ≤ a ∧ a ≤ 0xFE := of_decide_eq_true h

theorem not_isData_of_lt {a : Nat} (h : a < 0xF7) : isData a = false := decide_eq_false (by omega)

/-- The registers of an enabled channel, and those that are no data registers, read what they hold. -/
theorem read_of_not_skipped {d : Device} {a : Byte} (h : d.skipped a.toNat = false) :
    d.read a = Memory.read d.regs a.toNat := by
  simp [Device.read, h]

theorem read_of_not_data {d : Device} {a : Byte} (h : isData a.toNat = false) :
    d.read a = Memory.read d.regs a.toNat := read_of_not_skipped (skipped_other h)

/-! ### Writes -/

/-- Everything a write the device receives can do (R63, R65 to R67, R86). -/
theorem write_cases (d : Device) (k : Bool) (a v : Byte) :
    (a = Config.regReset ∧ v = Config.resetCode ∧ d.write k a v = d.softReset) ∨
    (a = Config.regCtrlHum ∧ d.write k a v = { d with regs := Memory.write d.regs 0xF2 v }) ∨
    (a = Config.regCtrlMeas ∧ d.write k a v = d.writeCtrlMeas v) ∨
    (a = Config.regConfig ∧ d.write k a v = { d with regs := Memory.write d.regs 0xF5 v }) ∨
    d.write k a v = d := by
  unfold Device.write
  split
  · next ha =>
    split
    · next hv => exact .inl ⟨ha, hv, rfl⟩
    · exact .inr (.inr (.inr (.inr rfl)))
  · split
    · next ha => exact .inr (.inl ⟨ha, rfl⟩)
    · split
      · next ha => exact .inr (.inr (.inl ⟨ha, rfl⟩))
      · split
        · next ha =>
          split
          · exact .inr (.inr (.inr (.inr rfl)))
          · exact .inr (.inr (.inr (.inl ⟨ha, rfl⟩)))
        · exact .inr (.inr (.inr (.inr rfl)))

theorem write_resetCode (d : Device) (k : Bool) : d.write k Config.regReset Config.resetCode = d.softReset := rfl

/-- Only the reset code has an effect at `REG_RESET` (R63). -/
theorem write_reset_ignored (d : Device) (k : Bool) {v : Byte} (h : v ≠ Config.resetCode) :
    d.write k Config.regReset v = d := (if_pos rfl).trans (if_neg h)

/-- No write changes a register below 0xF2 (R60, R85; log 17). -/
theorem write_low (d : Device) (k : Bool) (x v : Byte) {a : Nat} (ha : a < 0xF2) :
    Memory.read (d.write k x v).regs a = Memory.read d.regs a := by
  obtain ⟨rfl, -, -⟩ | ⟨-, h⟩ | ⟨rfl, -⟩ | ⟨-, h⟩ | h := write_cases d k x v
  · exact write_reset_bytes d k v a ha
  · rw [h]; exact memory_read_write_other _ _ _ _ (by omega)
  · exact write_ctrlMeas_bytes d k v a (by simp; omega) (skipped_other (not_isData_of_lt (by omega)))
  · rw [h]; exact memory_read_write_other _ _ _ _ (by omega)
  · rw [h]

/-- A write that is neither the reset code nor one of the two registers the latch knows leaves the humidity
oversampling that is pending and the one in effect (R82). -/
theorem write_keeps_humidity (d : Device) (k : Bool) {a v : Byte} (hhum : a ≠ Config.regCtrlHum)
    (hmeas : a ≠ Config.regCtrlMeas) (hreset : a = Config.regReset → v ≠ Config.resetCode) :
    (d.write k a v).oshEff = d.oshEff ∧ Memory.read (d.write k a v).regs 0xF2 = Memory.read d.regs 0xF2 := by
  obtain ⟨ha, hv, -⟩ | ⟨ha, -⟩ | ⟨ha, -⟩ | ⟨-, h⟩ | h := write_cases d k a v
  · exact absurd hv (hreset ha)
  · exact absurd ha hhum
  · exact absurd ha hmeas
  · rw [h]; exact ⟨rfl, memory_read_write_other _ _ _ _ (by decide)⟩
  · rw [h]; exact ⟨rfl, rfl⟩

/-- A write of `REG_CTRL_HUM` is pending (R82). -/
theorem write_ctrlHum_pending (d : Device) (k : Bool) (v : Byte) (h : Memory.wf d.regs = true) :
    Memory.read (d.write k Config.regCtrlHum v).regs 0xF2 = v := memory_read_write_same d.regs 0xF2 v 0 h

/-- A write of `REG_CTRL_MEAS` takes what is pending into effect (R82). -/
theorem write_ctrlMeas_oshEff (d : Device) (k : Bool) (v : Byte) :
    (d.write k Config.regCtrlMeas v).oshEff = (Memory.read d.regs 0xF2).extractLsb' 0 3 := rfl

/-- Settles O51: the three writes of a configuration change are the rules of its single writes, one after the
other. -/
theorem humidityLatch : Obligations.HumidityLatch := by
  unfold Obligations.HumidityLatch
  intro d hwf
  refine ⟨fun k v => ⟨(write_ctrlHum_bytes d k v).2, write_ctrlHum_pending d k v hwf⟩,
    fun k a v hhum hmeas hreset => write_keeps_humidity d k hhum hmeas hreset, move_hum d,
    write_ctrlMeas_oshEff d, fun j k l v c m => ?_⟩
  obtain ⟨heffect, hpending⟩ := write_keeps_humidity (d.write j Config.regCtrlHum v) k (a := Config.regConfig) (v := c)
    (by decide) (by decide) (fun he => absurd he (by decide))
  constructor
  · exact heffect.trans (write_ctrlHum_bytes d j v).2
  · exact congrArg (BitVec.extractLsb' 0 3) (hpending.trans (write_ctrlHum_pending d j v hwf))

/-! ### Soft reset -/

/-- Every register from 0xF2 on but the status reads its reset value after a soft reset (R83). -/
theorem softReset_read_high (d : Device) {a : Byte} (ha : 0xF2 ≤ a.toNat) (h3 : a.toNat ≠ 0xF3) :
    d.softReset.read a = resetByte a.toNat := read_of_sentinel (softReset_high d _ ha h3)

/-- The calibration copy is all that the status shows after a soft reset (R84; log 16). -/
theorem softReset_status (d : Device) (h : Memory.wf d.regs = true) : Memory.read d.softReset.regs 0xF3 = 0x01#8 :=
  memory_read_write_same _ _ _ 0 (memory_filter_wfFrom _ _ _ h)

/-- A bus read below 0xF2 gives the same before and after any write. -/
theorem write_read_low (d : Device) (k : Bool) (x v : Byte) {a : Byte} (ha : a.toNat < 0xF2) :
    (d.write k x v).read a = d.read a := by
  have hdata : isData a.toNat = false := not_isData_of_lt (by omega)
  rw [read_of_not_data hdata, read_of_not_data hdata, write_low d k x v ha]

/-- Settles O52. -/
theorem softResetOfDevice : Obligations.SoftResetOfDevice := by
  unfold Obligations.SoftResetOfDevice
  intro d k v hwf
  refine ⟨write_reset_ignored d k, ?_⟩
  rintro e rfl
  have high : ∀ a : Byte, 0xF2 ≤ a.toNat → a.toNat ≠ 0xF3 →
      (d.write k 0xE0#8 0xB6#8).read a = resetByte a.toNat := fun _ ha h3 => softReset_read_high d ha h3
  refine ⟨high _ (by decide) (by decide), high _ (by decide) (by decide), high _ (by decide) (by decide), ?_, rfl,
    high _ (by decide) (by decide), high _ (by decide) (by decide), high _ (by decide) (by decide),
    high _ (by decide) (by decide), high _ (by decide) (by decide), high _ (by decide) (by decide),
    high _ (by decide) (by decide), high _ (by decide) (by decide), fun a ha => write_read_low d k _ _ ha⟩
  have hstatus : (d.write k 0xE0#8 0xB6#8).read 0xF3#8 = 0x01#8 :=
    (read_of_not_data (by decide)).trans (softReset_status d hwf)
  rw [hstatus]
  decide

/-! ### Moves -/

/-- No move changes a register but the status and the mode, except that the end of a conversion gives an enabled
channel its code (R85; log 29). -/
theorem move_read (d : Device) (m : DeviceMove) {a : Nat} (h3 : a ≠ 0xF3) (h4 : a ≠ 0xF4)
    (ha : (∀ p t h, m = .conversionEnds p t h → d.skipped a = true) ∨ isData a = false) :
    Memory.read (d.move m).regs a = Memory.read d.regs a := by
  by_cases hm : ∃ p t h, m = .conversionEnds p t h
  · obtain ⟨p, t, h, rfl⟩ := hm
    have ha' : d.skipped a = true ∨ isData a = false := ha.imp_left fun hs => hs p t h rfl
    simp only [Device.move]
    split
    · exact endConversion_bytes d p t h a ha' h3 h4
    · rfl
  · exact move_bytes d m (fun p t h he => hm ⟨p, t, h, he⟩) a (by simpa using h3)

/-- A bus read below 0xF2 gives the same before and after any move. -/
theorem move_read_low (d : Device) (m : DeviceMove) {a : Byte} (ha : a.toNat < 0xF2) : (d.move m).read a = d.read a := by
  have hdata : isData a.toNat = false := not_isData_of_lt (by omega)
  rw [read_of_not_data hdata, read_of_not_data hdata, move_read d m (by omega) (by omega) (.inr hdata)]

/-! ### Steps -/

/-- What the device keeps at every write, and at the move that heads the bus queue, it keeps at every step. -/
theorem step_keeps_device {P : Device → Prop} {s t : State} (he : step s = .next t) (hs : P s.dev)
    (hwrite : ∀ k a v, P (s.dev.write k a v)) (hmove : ∀ m rest, s.busQueue = .move m :: rest → P (s.dev.move m)) :
    P t.dev := by
  obtain h | ⟨m, rest, hq, h⟩ | ⟨k, a, v, h, -⟩ := step_device_cases he
  · rwa [h]
  · rw [h]; exact hmove m rest hq
  · rw [h]; exact hwrite k a v

theorem isCalibration_lt {a : Byte} (h : isCalibration a = true) : a.toNat < 0xF2 := by
  simp only [isCalibration, Bool.or_eq_true, decide_eq_true_eq, beq_iff_eq] at h
  obtain (⟨-, hhi⟩ | rfl) | ⟨-, hhi⟩ := h
  · omega
  · decide
  · omega

/-- Settles O53: the calibration lies below every register that a write or a move can change. -/
theorem calibrationBytesConstant : Obligations.CalibrationBytesConstant := by
  unfold Obligations.CalibrationBytesConstant
  intro s t a hcal he
  have ha := isCalibration_lt hcal
  exact step_keeps_device (P := fun e => e.read a = s.dev.read a) he rfl (fun k x v => write_read_low _ k x v ha)
    fun m _ _ => move_read_low _ m ha

end Sys2Proof.Machine
end

section
/-! PROOF. The mode of the reference device and its measuring bit under writes, moves and steps
(spec/20_memory.md R64, R66, R83). -/

namespace Sys2Proof.Machine

/-! ### The fields and the bytes they are read from -/

theorem mode_of_ctrlMeas {d e : Device} (h : Memory.read e.regs 0xF4 = Memory.read d.regs 0xF4) : e.mode = d.mode := by
  rw [Device.mode, h, Device.mode]

theorem measuring_of_status {d e : Device} (h : Memory.read e.regs 0xF3 = Memory.read d.regs 0xF3) :
    e.measuring = d.measuring := by
  rw [Device.measuring, h, Device.measuring]

@[simp] theorem withMeasuring_bit (st : Byte) (b : Bool) : (withMeasuring st b).getLsbD 3 = b := by
  cases b <;> simp [withMeasuring]

@[simp] theorem setStatus_mode (d : Device) (v : Byte) : (d.setStatus v).mode = d.mode :=
  mode_of_ctrlMeas (setStatus_bytes d v 0xF4 (by decide))

theorem setStatus_measuring {d : Device} (v : Byte) (h : Memory.wf d.regs = true) :
    (d.setStatus v).measuring = v.getLsbD 3 := by
  rw [Device.measuring, setStatus_status d v h]

/-- A soft reset leaves the device in Sleep, and no conversion runs (R83). -/
theorem softReset_asleep {d : Device} (h : Memory.wf d.regs = true) :
    d.softReset.mode = 0#2 ∧ d.softReset.measuring = false := by
  constructor
  · rw [Device.mode, softReset_high d 0xF4 (by decide) (by decide)]; decide
  · rw [Device.measuring, softReset_status d h]; decide

/-! ### Writes -/

/-- A write elsewhere than at `REG_CTRL_MEAS` is a soft reset or leaves the mode and the measuring bit. -/
theorem write_mode_measuring {d : Device} (k : Bool) {a : Byte} (v : Byte) (h : Memory.wf d.regs = true)
    (ha : a ≠ Config.regCtrlMeas) :
    ((d.write k a v).mode = 0#2 ∧ (d.write k a v).measuring = false) ∨
    ((d.write k a v).mode = d.mode ∧ (d.write k a v).measuring = d.measuring) := by
  obtain ⟨-, -, hw⟩ | ⟨-, hw⟩ | ⟨hmeas, -⟩ | ⟨-, hw⟩ | hw := write_cases d k a v
  · rw [hw]; exact .inl (softReset_asleep h)
  · rw [hw]
    exact .inr ⟨mode_of_ctrlMeas (memory_read_write_other _ _ _ _ (by decide)),
      measuring_of_status (memory_read_write_other _ _ _ _ (by decide))⟩
  · exact absurd hmeas ha
  · rw [hw]
    exact .inr ⟨mode_of_ctrlMeas (memory_read_write_other _ _ _ _ (by decide)),
      measuring_of_status (memory_read_write_other _ _ _ _ (by decide))⟩
  · rw [hw]; exact .inr ⟨rfl, rfl⟩

/-- The write that wakes a sleeping device or starts a conversion there is that of a mode other than Sleep (R83). -/
theorem write_wakes {d : Device} {k : Bool} {a v : Byte} (h : Memory.wf d.regs = true) (hmode : d.mode = 0#2)
    (hidle : d.measuring = false) (hwake : (d.write k a v).mode ≠ 0#2 ∨ (d.write k a v).measuring = true) :
    a = Config.regCtrlMeas ∧ v.extractLsb' 0 2 ≠ 0#2 := by
  by_cases ha : a = Config.regCtrlMeas
  · refine ⟨ha, fun hv => ?_⟩
    obtain ⟨hm, hb⟩ := write_ctrlMeas_mode d k v h
    rw [ha, hm, hb, hv] at hwake
    simp [measuringAfter] at hwake
  · obtain ⟨hm, hb⟩ | ⟨hm, hb⟩ := write_mode_measuring k v h ha <;> simp [hm, hb, hmode, hidle] at hwake

/-! ### Moves -/

theorem storeConversion_wf {d : Device} (p t : BitVec 24) (hum : BitVec 16) (h : Memory.wf d.regs = true) :
    Memory.wf (d.storeConversion p t hum).regs = true := storeChannels_wf _ _ _ _ h

theorem leaveForced_wf {d : Device} (h : Memory.wf d.regs = true) : Memory.wf d.leaveForced.regs = true := by
  unfold Device.leaveForced
  split
  · exact h
  · exact memory_write_wf _ _ _ (by decide) h

/-- No conversion runs after the end of one (R64). -/
theorem endConversion_measuring {d : Device} (p t : BitVec 24) (hum : BitVec 16) (h : Memory.wf d.regs = true) :
    (d.endConversion p t hum).measuring = false :=
  (setStatus_measuring _ (leaveForced_wf (storeConversion_wf p t hum h))).trans (withMeasuring_bit _ _)

/-- Everything a move can do to the mode and the measuring bit: nothing, start a conversion in Normal mode, or end
one outside Sleep (R66, R83; log 29). -/
theorem move_mode_measuring {d : Device} (m : DeviceMove) (h : Memory.wf d.regs = true) :
    ((d.move m).mode = d.mode ∧ (d.move m).measuring = d.measuring) ∨
    (d.mode = 3#2 ∧ (d.move m).mode = 3#2) ∨
    (d.mode ≠ 0#2 ∧ (d.move m).measuring = false) := by
  cases m with
  | copyDone =>
    refine .inl ⟨setStatus_mode d _, (setStatus_measuring _ h).trans ?_⟩
    simp [Device.measuring]
  | conversionStarts =>
    simp only [Device.move]
    split
    · next hnormal => exact .inr (.inl ⟨hnormal, (setStatus_mode d _).trans hnormal⟩)
    · exact .inl ⟨rfl, rfl⟩
  | conversionEnds p t hum =>
    simp only [Device.move]
    split
    · next hruns => exact .inr (.inr ⟨hruns.1, endConversion_measuring p t hum h⟩)
    · exact .inl ⟨rfl, rfl⟩
  | reservedStatus v =>
    refine .inl ⟨setStatus_mode d _, (setStatus_measuring _ h).trans ?_⟩
    simp [Device.measuring]

/-- In Sleep no move leaves the mode or starts a conversion (R83). -/
theorem move_asleep {d : Device} (m : DeviceMove) (h : Memory.wf d.regs = true) (hmode : d.mode = 0#2) :
    (d.move m).mode = 0#2 ∧ (d.move m).measuring = d.measuring := by
  obtain ⟨hm, hb⟩ | ⟨hnormal, -⟩ | ⟨hawake, -⟩ := move_mode_measuring m h
  · exact ⟨hm.trans hmode, hb⟩
  · rw [hmode] at hnormal; exact absurd hnormal (by decide)
  · exact absurd hmode hawake

/-- In Sleep no move changes a byte but the status: a conversion does not end there (R83; log 29). -/
theorem move_asleep_bytes {d : Device} (m : DeviceMove) (hmode : d.mode = 0#2) : sameBytesBut [0xF3] d (d.move m) := by
  by_cases hm : ∃ p t h, m = .conversionEnds p t h
  · obtain ⟨p, t, h, rfl⟩ := hm
    simp only [Device.move, hmode, ne_eq, not_true_eq_false, false_and, if_false]
    exact fun _ _ => rfl
  · exact move_bytes d m fun p t h he => hm ⟨p, t, h, he⟩

/-! ### No conversion runs in Sleep -/

/-- In Sleep no conversion runs. -/
def Device.SleepIsIdle (d : Device) : Prop := d.mode = 0#2 → d.measuring = false

/-- Every write keeps it: a write of Sleep stops the measurement (log 20). -/
theorem write_sleepIsIdle {d : Device} (k : Bool) (a v : Byte) (h : Memory.wf d.regs = true) (hd : d.SleepIsIdle) :
    (d.write k a v).SleepIsIdle := by
  intro hmode
  by_cases ha : a = Config.regCtrlMeas
  · subst ha
    obtain ⟨hm, hb⟩ := write_ctrlMeas_mode d k v h
    rw [hb, ← hm, hmode]
    rfl
  · obtain ⟨-, hb⟩ | ⟨hm, hb⟩ := write_mode_measuring k v h ha
    · exact hb
    · exact hb.trans (hd (hm.symm.trans hmode))

theorem move_sleepIsIdle {d : Device} (m : DeviceMove) (h : Memory.wf d.regs = true) (hd : d.SleepIsIdle) :
    (d.move m).SleepIsIdle := by
  intro hmode
  obtain ⟨hm, hb⟩ | ⟨-, hnormal⟩ | ⟨-, hb⟩ := move_mode_measuring m h
  · exact hb.trans (hd (hm.symm.trans hmode))
  · rw [hmode] at hnormal; exact absurd hnormal (by decide)
  · exact hb

/-- The step that wakes a sleeping device or starts a conversion there is the acknowledged write of a mode other
than Sleep (R66, R83; log 15). -/
theorem step_wakes {s t : State} (h : Memory.wf s.dev.regs = true) (hmode : s.dev.mode = 0#2)
    (hidle : s.dev.measuring = false) (he : step s = .next t) (hwake : t.dev.mode ≠ 0#2 ∨ t.dev.measuring = true) :
    ∃ v : Byte, v.extractLsb' 0 2 ≠ 0#2 ∧ t.events = s.events ++ [.write Config.regCtrlMeas v true] := by
  obtain hdev | ⟨m, rest, -, hdev⟩ | ⟨k, a, v, hdev, hevents⟩ := step_device_cases he
  · rw [hdev] at hwake; simp [hmode, hidle] at hwake
  · obtain ⟨hm, hb⟩ := move_asleep m h hmode
    rw [hdev] at hwake; simp [hm, hb, hidle] at hwake
  · rw [hdev] at hwake
    obtain ⟨rfl, hv⟩ := write_wakes h hmode hidle hwake
    exact ⟨v, hv, hevents⟩

/-- Settles O55. -/
theorem noMeasurementInSleep : Obligations.NoMeasurementInSleep := by
  unfold Obligations.NoMeasurementInSleep
  refine ⟨by decide, fun d k h => softReset_asleep h,
    fun d m h hmode => ⟨(move_asleep m h hmode).2, (move_hum d m).1, move_asleep_bytes m hmode⟩,
    fun s t h hmode hidle he hwake => step_wakes h hmode hidle he hwake, fun s t h hidle he => ?_⟩
  exact step_keeps_device (P := Device.SleepIsIdle) he hidle (fun k a v => write_sleepIsIdle k a v h hidle)
    fun m _ _ => move_sleepIsIdle m h hidle

end Sys2Proof.Machine
end

section
/-! PROOF. The data registers of the reference device (spec/20_memory.md R68, R87, R309): the codes a conversion
gives the enabled channels, and the sentinel a skipped channel keeps. -/

namespace Sys2Proof.Machine

/-! ### Which channels a conversion gives a code -/

theorem storeConversion_skipped (d : Device) (p t : BitVec 24) (hum : BitVec 16) (a : Nat) :
    (d.storeConversion p t hum).skipped a = d.skipped a :=
  skipped_of_ctrlMeas a (storeConversion_read d p t hum 0xF4 (.inr (by decide))) rfl

/-- Leaving Forced mode clears the mode bits, which say nothing about the oversampling. -/
theorem leaveForced_skipped {d : Device} (h : Memory.wf d.regs = true) (a : Nat) :
    d.leaveForced.skipped a = d.skipped a := by
  unfold Device.leaveForced
  split
  · rfl
  · have hP : ∀ b : Byte, (b &&& 0xFC#8).extractLsb' 2 3 = b.extractLsb' 2 3 := by decide
    have hT : ∀ b : Byte, (b &&& 0xFC#8).extractLsb' 5 3 = b.extractLsb' 5 3 := by decide
    simp only [Device.skipped, Device.osrsP, Device.osrsT, memory_read_write_same _ _ _ 0 h, hP, hT]

/-- The end of a conversion leaves which channels are skipped (R66). -/
theorem endConversion_skipped {d : Device} (p t : BitVec 24) (hum : BitVec 16) (h : Memory.wf d.regs = true)
    (a : Nat) : (d.endConversion p t hum).skipped a = d.skipped a :=
  calc (d.endConversion p t hum).skipped a
      = (d.storeConversion p t hum).leaveForced.skipped a :=
        skipped_of_ctrlMeas a (setStatus_bytes _ _ 0xF4 (by decide)) rfl
    _ = (d.storeConversion p t hum).skipped a := leaveForced_skipped (storeConversion_wf p t hum h) a
    _ = d.skipped a := storeConversion_skipped d p t hum a

/-- After the end of a conversion an enabled channel reads what the conversion stored (R68). -/
theorem endConversion_read {d : Device} (p t : BitVec 24) (hum : BitVec 16) (h : Memory.wf d.regs = true) {a : Byte}
    (ha : 0xF7 ≤ a.toNat) (henabled : d.skipped a.toNat = false) :
    (d.endConversion p t hum).read a = Memory.read (d.storeConversion p t hum).regs a.toNat := by
  rw [read_of_not_skipped ((endConversion_skipped p t hum h _).trans henabled)]
  simp only [Device.endConversion]
  rw [setStatus_bytes _ _ _ (by simp; omega), leaveForced_bytes _ _ (by simp; omega)]

/-! ### The codes -/

/-- Each enabled channel's registers hold its code, most significant byte first, whatever the other channels get. -/
theorem storeConversion_press {d : Device} (p t : BitVec 24) (hum : BitVec 16) (h : Memory.wf d.regs = true)
    (hP : d.osrsP ≠ 0#3) :
    Memory.read (d.storeConversion p t hum).regs 0xF7 = p.extractLsb' 16 8 ∧
    Memory.read (d.storeConversion p t hum).regs 0xF8 = p.extractLsb' 8 8 ∧
    Memory.read (d.storeConversion p t hum).regs 0xF9 = p.extractLsb' 0 8 := by
  simp only [Device.storeConversion, if_neg hP]
  rw [storeChannels_press _ _ _ _ _ (by decide), storeChannels_press _ _ _ _ _ (by decide),
    storeChannels_press _ _ _ _ _ (by decide)]
  exact storeCode24_read d.regs 0xF7 p (by decide) h

theorem storeConversion_temp {d : Device} (p t : BitVec 24) (hum : BitVec 16) (h : Memory.wf d.regs = true)
    (hT : d.osrsT ≠ 0#3) :
    Memory.read (d.storeConversion p t hum).regs 0xFA = t.extractLsb' 16 8 ∧
    Memory.read (d.storeConversion p t hum).regs 0xFB = t.extractLsb' 8 8 ∧
    Memory.read (d.storeConversion p t hum).regs 0xFC = t.extractLsb' 0 8 := by
  simp only [Device.storeConversion, if_neg hT]
  generalize (if d.osrsP = 0#3 then none else some p) = p'
  generalize (if d.oshEff = 0#3 then none else some hum) = hum'
  have hbefore : ∀ b, b ≤ 0xFC → Memory.read (storeChannels d.regs p' (some t) hum') b =
      Memory.read (storeCode24 (storeChannels d.regs p' none none) 0xFA t) b := fun b hb =>
    storeChannels_read_other (storeCode24 (storeChannels d.regs p' none none) 0xFA t) none none hum' b (.inl rfl)
      (.inl rfl) (.inr (by omega))
  rw [hbefore _ (by decide), hbefore _ (by decide), hbefore _ (by decide)]
  exact storeCode24_read _ 0xFA t (by decide) (storeChannels_wf _ _ _ _ h)

theorem storeConversion_hum {d : Device} (p t : BitVec 24) (hum : BitVec 16) (h : Memory.wf d.regs = true)
    (hH : d.oshEff ≠ 0#3) :
    Memory.read (d.storeConversion p t hum).regs 0xFD = hum.extractLsb' 8 8 ∧
    Memory.read (d.storeConversion p t hum).regs 0xFE = hum.extractLsb' 0 8 := by
  simp only [Device.storeConversion, if_neg hH, storeChannels_hum]
  exact storeCode16_read _ 0xFD hum (by decide) (storeChannels_wf _ _ _ _ h)

/-- After the end of a conversion the bytes of an enabled channel assemble to its code (R73, R87). -/
theorem endConversion_press {d : Device} (p t : BitVec 24) (hum : BitVec 16) (h : Memory.wf d.regs = true)
    (hP : d.osrsP ≠ 0#3) :
    code24 ((d.endConversion p t hum).read 0xF7#8) ((d.endConversion p t hum).read 0xF8#8)
      ((d.endConversion p t hum).read 0xF9#8) = p := by
  have hread : ∀ a : Byte, 0xF7 ≤ a.toNat ∧ a.toNat ≤ 0xF9 →
      (d.endConversion p t hum).read a = Memory.read (d.storeConversion p t hum).regs a.toNat :=
    fun a ha => endConversion_read p t hum h ha.1 (by simpa [skipped_press ha] using hP)
  obtain ⟨h0, h1, h2⟩ := storeConversion_press p t hum h hP
  rw [(hread 0xF7#8 (by decide)).trans h0, (hread 0xF8#8 (by decide)).trans h1, (hread 0xF9#8 (by decide)).trans h2,
    code24_extract]

theorem endConversion_temp {d : Device} (p t : BitVec 24) (hum : BitVec 16) (h : Memory.wf d.regs = true)
    (hT : d.osrsT ≠ 0#3) :
    code24 ((d.endConversion p t hum).read 0xFA#8) ((d.endConversion p t hum).read 0xFB#8)
      ((d.endConversion p t hum).read 0xFC#8) = t := by
  have hread : ∀ a : Byte, 0xFA ≤ a.toNat ∧ a.toNat ≤ 0xFC →
      (d.endConversion p t hum).read a = Memory.read (d.storeConversion p t hum).regs a.toNat :=
    fun a ha => endConversion_read p t hum h (by omega) (by simpa [skipped_temp ha] using hT)
  obtain ⟨h0, h1, h2⟩ := storeConversion_temp p t hum h hT
  rw [(hread 0xFA#8 (by decide)).trans h0, (hread 0xFB#8 (by decide)).trans h1, (hread 0xFC#8 (by decide)).trans h2,
    code24_extract]

theorem endConversion_hum {d : Device} (p t : BitVec 24) (hum : BitVec 16) (h : Memory.wf d.regs = true)
    (hH : d.oshEff ≠ 0#3) :
    code16 ((d.endConversion p t hum).read 0xFD#8) ((d.endConversion p t hum).read 0xFE#8) = hum := by
  have hread : ∀ a : Byte, 0xFD ≤ a.toNat ∧ a.toNat ≤ 0xFE →
      (d.endConversion p t hum).read a = Memory.read (d.storeConversion p t hum).regs a.toNat :=
    fun a ha => endConversion_read p t hum h (by omega) (by simpa [skipped_hum ha] using hH)
  obtain ⟨h0, h1⟩ := storeConversion_hum p t hum h hH
  rw [(hread 0xFD#8 (by decide)).trans h0, (hread 0xFE#8 (by decide)).trans h1, code16_extract]

/-- A running conversion outside Sleep ends when the device says so (R66; log 29). -/
theorem move_conversionEnds {d : Device} (p t : BitVec 24) (hum : BitVec 16) (hmode : d.mode ≠ 0#2)
    (hruns : d.measuring = true) : d.move (.conversionEnds p t hum) = d.endConversion p t hum := if_pos ⟨hmode, hruns⟩

/-- The device stands still inside a read (R76). -/
theorem memRead_dev {addr : Byte} {n : Nat} {s t : State} {b0 b1 b2 : Byte} (h : memRead addr n s = .ack b0 b1 b2 t) :
    t.dev = s.dev := by
  obtain ⟨-, hw⟩ | ⟨a, rest, -, ⟨-, hn⟩ | ⟨c0, c1, c2, -, ha⟩⟩ := memRead_cases addr n s
  · rw [hw] at h; cases h
  · rw [hn] at h; cases h
  · rw [ha] at h; cases h; rfl

/-- Settles O56, channel by channel. -/
theorem burstReadsGiveOneConversion : Obligations.BurstReadsGiveOneConversion := by
  unfold Obligations.BurstReadsGiveOneConversion
  refine ⟨fun d p t hum k h hmode hruns => ?_, fun d m a ha hm => ?_, fun s t addr n b0 b1 b2 hr => memRead_dev hr⟩
  · rw [move_conversionEnds p t hum hmode hruns]
    exact ⟨fun hP => ⟨_, _, _, rfl, endConversion_press p t hum h hP⟩,
      fun hT => ⟨_, _, _, rfl, endConversion_temp p t hum h hT⟩,
      fun hH => ⟨_, _, _, rfl, endConversion_hum p t hum h hH⟩⟩
  · have hrange := isData_range ha
    exact move_bytes d m hm a (by simp; omega)

/-! ### The sentinel -/

/-- The write that leaves a channel Skip puts the reset value into its registers (R68). -/
theorem write_ctrlMeas_sentinel {d : Device} (k : Bool) (v : Byte) {a : Nat} (h : Memory.wf d.regs = true)
    (hs : (d.write k Config.regCtrlMeas v).skipped a = true) :
    Memory.read (d.write k Config.regCtrlMeas v).regs a = resetByte a := by
  rw [write_ctrlMeas, Device.writeCtrlMeas] at hs ⊢
  rw [clearSkipped_skipped] at hs
  exact clearSkipped_sentinel _ a (device_setStatus_wf _ _ (memory_write_wf _ _ _ (by decide) h)) hs

/-- A data register that holds its reset value holds it after every write (R309; log 17). -/
theorem write_keeps_sentinel {d : Device} (k : Bool) (x v : Byte) {a : Nat} (h : Memory.wf d.regs = true)
    (ha : isData a = true) (hd : Memory.read d.regs a = resetByte a) :
    Memory.read (d.write k x v).regs a = resetByte a := by
  have hrange := isData_range ha
  obtain ⟨-, -, hw⟩ | ⟨-, hw⟩ | ⟨rfl, -⟩ | ⟨-, hw⟩ | hw := write_cases d k x v
  · rw [hw]; exact softReset_high d a (by omega) (by omega)
  · rw [hw]; exact (memory_read_write_other _ _ _ _ (by omega)).trans hd
  · cases hs : (d.write k Config.regCtrlMeas v).skipped a with
    | true => exact write_ctrlMeas_sentinel k v h hs
    | false => exact (write_ctrlMeas_bytes d k v a (by simp; omega) hs).trans hd
  · rw [hw]; exact (memory_read_write_other _ _ _ _ (by omega)).trans hd
  · rw [hw]; exact hd

/-- It holds it after every move but the end of a conversion of its channel, enabled (R309; log 33). -/
theorem move_keeps_sentinel {d : Device} (m : DeviceMove) {a : Nat} (ha : isData a = true)
    (hd : Memory.read d.regs a = resetByte a)
    (hend : ∀ p t h, m = .conversionEnds p t h → d.skipped a = true) :
    Memory.read (d.move m).regs a = resetByte a := by
  have hrange := isData_range ha
  exact (move_read d m (by omega) (by omega) (.inl hend)).trans hd

/-- Settles O57: a register that holds its reset value reads it, so each clause is about what the register holds. -/
theorem skippedChannelsReadTheirSentinel : Obligations.SkippedChannelsReadTheirSentinel := by
  unfold Obligations.SkippedChannelsReadTheirSentinel
  intro a ha holds
  have hrange := isData_range ha
  have holds_of : ∀ d : Device, Memory.read d.regs a.toNat = resetByte a.toNat → holds d :=
    fun d hd => ⟨hd, read_of_sentinel hd⟩
  refine ⟨holds_of _ rfl, fun d h => ⟨fun hs => if_pos hs,
    fun k v hs => holds_of _ (write_ctrlMeas_sentinel k v h hs),
    fun k => holds_of _ (softReset_high d _ (by omega) (by omega)), fun hd => ?_⟩⟩
  have hwrite : ∀ k x v, holds (d.write k x v) := fun k x v => holds_of _ (write_keeps_sentinel k x v h ha hd)
  have hmove : ∀ m, (∀ p t h, m = .conversionEnds p t h → d.skipped a.toNat = true) → holds (d.move m) :=
    fun m hend => holds_of _ (move_keeps_sentinel m ha hd hend)
  refine ⟨holds_of d hd, hwrite, hmove, fun s t hs he hend => ?_⟩
  subst hs
  refine step_keeps_device (P := holds) he (holds_of _ hd) hwrite fun m rest hq => hmove m ?_
  rintro p t' hum rfl
  exact hend p t' hum rest hq

end Sys2Proof.Machine
end

section
/-! PROOF. Decoding and encoding (spec/30_encoding.md R100 to R111): where the word of a command holds its opcode
and its operands, and that the decoder gives a command exactly on the word the encoder makes of it. -/

namespace Sys2Proof

open Sys2Proof.Laws.Opcode

/-! ### Legal operand codes -/

theorem modeLegal_iff (md : BitVec 2) : modeLegal md = true ↔ md ≠ 2#2 := bne_iff_ne

theorem osrsLegal_iff (o : BitVec 3) : osrsLegal o = true ↔ o.toNat ≤ 5 := BitVec.ule_iff_le

theorem filterLegal_iff (f : BitVec 3) : filterLegal f = true ↔ f.toNat ≤ 4 := BitVec.ule_iff_le

theorem wellFormed_configure_iff (md : BitVec 2) (ot opr oh flt sb : BitVec 3) :
    (Instr.configure md ot opr oh flt sb).wellFormed = true ↔
      md ≠ 2#2 ∧ ot.toNat ≤ 5 ∧ opr.toNat ≤ 5 ∧ oh.toNat ≤ 5 ∧ flt.toNat ≤ 4 := by
  simp only [Instr.wellFormed, Bool.and_eq_true, modeLegal_iff, osrsLegal_iff, filterLegal_iff, and_assoc]

/-! ### The fields of a word -/

/-- A concatenation is a field of a word exactly when each part is its part of the field. -/
theorem append_eq_extractLsb'_iff {n p q k : Nat} {w : BitVec n} (a : BitVec p) (b : BitVec q) :
    a ++ b = w.extractLsb' k (p + q) ↔ a = w.extractLsb' (k + q) p ∧ b = w.extractLsb' k q := by
  rw [← BitVec.extractLsb'_append_extractLsb'_eq_extractLsb' (x := w) (Eq.refl (k + q))]
  constructor
  · intro h
    exact ⟨by simpa only [BitVec.extractLsb'_append_eq_left] using congrArg (·.extractLsb' q p) h,
      by simpa only [BitVec.extractLsb'_append_eq_right] using congrArg (·.extractLsb' 0 q) h⟩
  · rintro ⟨rfl, rfl⟩
    rfl

/-- A concatenation is a word exactly when each part is its part of the word. -/
theorem append_eq_iff {p q : Nat} {w : BitVec (p + q)} (a : BitVec p) (b : BitVec q) :
    a ++ b = w ↔ a = w.extractLsb' q p ∧ b = w.extractLsb' 0 q := by
  simpa only [BitVec.extractLsb'_eq_self, Nat.zero_add] using append_eq_extractLsb'_iff (w := w) (k := 0) a b

/-- A field of one bit. -/
theorem ofBool_eq_extractLsb'_iff {n k : Nat} {w : BitVec n} (b : Bool) :
    BitVec.ofBool b = w.extractLsb' k 1 ↔ b = w.getLsbD k := by
  rw [BitVec.eq_of_getLsbD_eq_iff]
  simp

/-- The word's bits below its opcode are those of the command: its operands in their fields, and every other bit
zero (R102, R103, R108, R109). -/
def Instr.HeldBy (w : Word) : Instr → Prop
  | .init => w.extractLsb' 0 28 = 0#28
  | .configure md ot opr oh flt sb =>
    w.extractLsb' 17 11 = 0#11 ∧
      md = w.extractLsb' 0 2 ∧ ot = w.extractLsb' 5 3 ∧ opr = w.extractLsb' 2 3 ∧ oh = w.extractLsb' 8 3 ∧
      flt = w.extractLsb' 11 3 ∧ sb = w.extractLsb' 14 3
  | .readT => w.extractLsb' 0 28 = 0#28
  | .readP fresh => w.extractLsb' 0 27 = 0#27 ∧ fresh = w.getLsbD 27
  | .readH fresh => w.extractLsb' 0 27 = 0#27 ∧ fresh = w.getLsbD 27

/-- The word of a command without operands. -/
theorem plainWord_eq_iff (op : BitVec 4) (w : Word) :
    op ++ 0#28 = w ↔ opField w = op ∧ w.extractLsb' 0 28 = 0#28 := by
  rw [append_eq_iff]
  exact and_congr eq_comm eq_comm

/-- The word of a command whose operand is the fresh bit. -/
theorem freshWord_eq_iff (op : BitVec 4) (fresh : Bool) (w : Word) :
    op ++ BitVec.ofBool fresh ++ 0#27 = w ↔
      opField w = op ∧ w.extractLsb' 0 27 = 0#27 ∧ fresh = w.getLsbD 27 := by
  rw [append_eq_iff, append_eq_extractLsb'_iff, ofBool_eq_extractLsb'_iff, and_assoc]
  exact and_congr eq_comm (and_comm.trans (and_congr_left' eq_comm))

/-- The opcode and the operand fields determine a command's word. -/
theorem encode_eq_iff (i : Instr) (w : Word) : encode i = w ↔ opField w = opcodeOf i ∧ i.HeldBy w := by
  cases i with
  | init => exact plainWord_eq_iff 1#4 w
  | readT => exact plainWord_eq_iff 3#4 w
  | readP fresh => exact freshWord_eq_iff 4#4 fresh w
  | readH fresh => exact freshWord_eq_iff 5#4 fresh w
  | configure md ot opr oh flt sb =>
    rw [encode, append_eq_iff, append_eq_extractLsb'_iff, append_eq_extractLsb'_iff,
      append_eq_extractLsb'_iff, append_eq_extractLsb'_iff, append_eq_extractLsb'_iff, append_eq_extractLsb'_iff]
    constructor
    · rintro ⟨⟨⟨⟨⟨⟨⟨hop, hzero⟩, hsb⟩, hflt⟩, hoh⟩, hot⟩, hopr⟩, hmd⟩
      exact ⟨hop.symm, hzero.symm, hmd, hot, hopr, hoh, hflt, hsb⟩
    · rintro ⟨hop, hzero, hmd, hot, hopr, hoh, hflt, hsb⟩
      exact ⟨⟨⟨⟨⟨⟨⟨hop.symm, hzero.symm⟩, hsb⟩, hflt⟩, hoh⟩, hot⟩, hopr⟩, hmd⟩

/-! ### The decoder

The body `decode` runs on the words of each opcode (R101). -/

theorem decode_opcode_init {w : Word} (h : opField w = 1#4) : decode w = decodeInit w := if_pos h

theorem decode_opcode_configure {w : Word} (h : opField w = 2#4) : decode w = decodeConfigure w := by
  simp [decode, h]

theorem decode_opcode_readT {w : Word} (h : opField w = 3#4) : decode w = decodeReadT w := by
  simp [decode, h]

theorem decode_opcode_readP {w : Word} (h : opField w = 4#4) : decode w = decodeReadP w := by
  simp [decode, h]

theorem decode_opcode_readH {w : Word} (h : opField w = 5#4) : decode w = decodeReadH w := by
  simp [decode, h]

/-- The operands a CONFIGURE word has, legal or not. -/
def configureOf (w : Word) : Instr :=
  .configure (w.extractLsb' 0 2) (w.extractLsb' 5 3) (w.extractLsb' 2 3) (w.extractLsb' 8 3) (w.extractLsb' 11 3)
    (w.extractLsb' 14 3)

/-- A CONFIGURE word is a command exactly with its must-be-zero bits zero and legal codes (R103, R110). -/
theorem decodeConfigure_eq_command_iff (w : Word) (i : Instr) :
    decodeConfigure w = .command i ↔
      w.extractLsb' 17 11 = 0#11 ∧ (configureOf w).wellFormed = true ∧ i = configureOf w := by
  simp only [configureOf, Instr.wellFormed, Bool.and_eq_true]
  constructor
  · intro h
    simp only [decodeConfigure] at h
    split_ifs at h with hzero hmd hosrs hflt
    cases h
    simp_all
  · rintro ⟨hzero, ⟨⟨⟨⟨hmd, hot⟩, hopr⟩, hoh⟩, hflt⟩, rfl⟩
    simp [decodeConfigure, hzero, hmd, hot, hopr, hoh, hflt]

/-- The decoder gives a command exactly on a word of its opcode that holds it, if its codes are legal (R111). -/
theorem decode_eq_command_iff (w : Word) (i : Instr) :
    decode w = .command i ↔ opField w = opcodeOf i ∧ i.HeldBy w ∧ i.wellFormed = true := by
  constructor
  · intro h
    unfold decode at h
    split_ifs at h with hop hop hop hop hop
    · unfold decodeInit at h
      split_ifs at h with hzero
      cases h; exact ⟨hop, hzero, rfl⟩
    · obtain ⟨hzero, hwf, rfl⟩ := (decodeConfigure_eq_command_iff w i).mp h
      exact ⟨hop, ⟨hzero, rfl, rfl, rfl, rfl, rfl, rfl⟩, hwf⟩
    · unfold decodeReadT at h
      split_ifs at h with hzero
      cases h; exact ⟨hop, hzero, rfl⟩
    · unfold decodeReadP at h
      split_ifs at h with hzero
      cases h; exact ⟨hop, ⟨hzero, rfl⟩, rfl⟩
    · unfold decodeReadH at h
      split_ifs at h with hzero
      cases h; exact ⟨hop, ⟨hzero, rfl⟩, rfl⟩
  · rintro ⟨hop, hheld, hwf⟩
    cases i with
    | init => exact (decode_opcode_init hop).trans (if_pos hheld)
    | configure md ot opr oh flt sb =>
      obtain ⟨hzero, rfl, rfl, rfl, rfl, rfl, rfl⟩ := hheld
      exact (decode_opcode_configure hop).trans ((decodeConfigure_eq_command_iff w _).mpr ⟨hzero, hwf, rfl⟩)
    | readT => exact (decode_opcode_readT hop).trans (if_pos hheld)
    | readP fresh =>
      obtain ⟨hzero, rfl⟩ := hheld
      exact (decode_opcode_readP hop).trans (if_pos hzero)
    | readH fresh =>
      obtain ⟨hzero, rfl⟩ := hheld
      exact (decode_opcode_readH hop).trans (if_pos hzero)

/-- The words that decode to a command are its encoding, if it is well-formed. -/
theorem decode_eq_command_iff_encode (w : Word) (i : Instr) :
    decode w = .command i ↔ encode i = w ∧ i.wellFormed = true := by
  rw [decode_eq_command_iff, encode_eq_iff, and_assoc]

/-- Settles O4: a command's word holds its opcode and its fields, which is all the decoder asks of it. -/
theorem decodeOfEncode : Obligations.DecodeOfEncode := by
  unfold Obligations.DecodeOfEncode
  exact fun i hwf => (decode_eq_command_iff_encode _ i).mpr ⟨rfl, hwf⟩

/-- Settles O5, the other direction of the same equivalence. -/
theorem encodeOfDecode : Obligations.EncodeOfDecode := by
  unfold Obligations.EncodeOfDecode
  exact fun w i h => (decode_eq_command_iff_encode w i).mp h

/-- Settles O2: each clause is `decode_eq_command_iff` for its command. -/
theorem decodeFollowsTable : Obligations.DecodeFollowsTable := by
  unfold Obligations.DecodeFollowsTable
  refine fun w => ⟨?_, fun md ot opr oh flt sb => ?_, ?_, fun f => ?_, fun f => ?_⟩
  all_goals rw [decode_eq_command_iff]
  · simp [opField, opcodeOf, Instr.HeldBy, Instr.wellFormed]
  · simp only [opField, opcodeOf, Instr.HeldBy, wellFormed_configure_iff, and_assoc]
  · simp [opField, opcodeOf, Instr.HeldBy, Instr.wellFormed]
  · simp [opField, opcodeOf, Instr.HeldBy, Instr.wellFormed]
  · simp [opField, opcodeOf, Instr.HeldBy, Instr.wellFormed]

/-- Settles O1: each word is computed. -/
theorem specWordsDecode : Obligations.SpecWordsDecode := by
  unfold Obligations.SpecWordsDecode
  decide

end Sys2Proof
end

section
/-! PROOF. Illegal words (spec/30_encoding.md R110) and the block's answer to one (spec/60_exceptions.md R274). -/

namespace Sys2Proof

/-- The opcodes of R101, and the others. -/
theorem opField_cases (w : Word) :
    opField w = 1#4 ∨ opField w = 2#4 ∨ opField w = 3#4 ∨ opField w = 4#4 ∨ opField w = 5#4 ∨
      opField w = 0#4 ∨ 6 ≤ (opField w).toNat := by
  generalize opField w = op
  revert op
  decide

theorem decode_opcode_other {w : Word} (h : opField w = 0#4 ∨ 6 ≤ (opField w).toNat) :
    decode w = .illegal .opcode := by
  have hother : ∀ op : BitVec 4, op = 0#4 ∨ 6 ≤ op.toNat →
      op ≠ 1#4 ∧ op ≠ 2#4 ∧ op ≠ 3#4 ∧ op ≠ 4#4 ∧ op ≠ 5#4 := by
    decide
  obtain ⟨h1, h2, h3, h4, h5⟩ := hother _ h
  simp only [decode, if_neg h1, if_neg h2, if_neg h3, if_neg h4, if_neg h5]

/-- A decoded word is a command or illegal. -/
theorem illegal_iff_no_command (d : Decoded) : (∃ why, d = .illegal why) ↔ ∀ i, d ≠ .command i := by
  cases d <;> simp

theorem decodeConfigure_illegal_iff (w : Word) :
    (∃ why, decodeConfigure w = .illegal why) ↔
      w.extractLsb' 17 11 ≠ 0#11 ∨ w.extractLsb' 0 2 = 2#2 ∨ 6 ≤ (w.extractLsb' 5 3).toNat ∨
        6 ≤ (w.extractLsb' 2 3).toNat ∨ 6 ≤ (w.extractLsb' 8 3).toNat ∨ 5 ≤ (w.extractLsb' 11 3).toNat := by
  have hcommand : (∀ i, decodeConfigure w ≠ .command i) ↔
      ¬(w.extractLsb' 17 11 = 0#11 ∧ (configureOf w).wellFormed = true) := by
    constructor
    · rintro h ⟨hzero, hwf⟩
      exact h _ ((decodeConfigure_eq_command_iff w _).mpr ⟨hzero, hwf, rfl⟩)
    · intro h i hi
      obtain ⟨hzero, hwf, -⟩ := (decodeConfigure_eq_command_iff w i).mp hi
      exact h ⟨hzero, hwf⟩
  rw [illegal_iff_no_command, hcommand, configureOf, wellFormed_configure_iff]
  simp only [not_and_or, not_not, ne_eq, not_le, Nat.lt_iff_add_one_le, Nat.reduceAdd]

/-- The illegal words, opcode by opcode. -/
theorem decode_illegal_iff (w : Word) :
    (∃ why, decode w = .illegal why) ↔
      (opField w = 0#4 ∨ 6 ≤ (opField w).toNat) ∨
      ((opField w = 1#4 ∨ opField w = 3#4) ∧ w.extractLsb' 0 28 ≠ 0#28) ∨
      (opField w = 2#4 ∧ w.extractLsb' 17 11 ≠ 0#11) ∨
      ((opField w = 4#4 ∨ opField w = 5#4) ∧ w.extractLsb' 0 27 ≠ 0#27) ∨
      (opField w = 2#4 ∧
        (w.extractLsb' 0 2 = 2#2 ∨ 6 ≤ (w.extractLsb' 5 3).toNat ∨ 6 ≤ (w.extractLsb' 2 3).toNat ∨
          6 ≤ (w.extractLsb' 8 3).toNat ∨ 5 ≤ (w.extractLsb' 11 3).toNat)) := by
  obtain h | h | h | h | h | h := opField_cases w
  · rw [decode_opcode_init h, decodeInit, h]
    split_ifs <;> simp_all
  · rw [decode_opcode_configure h, decodeConfigure_illegal_iff, h]
    simp
  · rw [decode_opcode_readT h, decodeReadT, h]
    split_ifs <;> simp_all
  · rw [decode_opcode_readP h, decodeReadP, h]
    split_ifs <;> simp_all
  · rw [decode_opcode_readH h, decodeReadH, h]
    split_ifs <;> simp_all
  · rw [decode_opcode_other h]
    simp [h]

end Sys2Proof

namespace Sys2Proof.Machine

/-- An idle block with nothing before the host's word accepts it (R289). -/
theorem step_acceptStep {s : State} {w : Word} {rest : List Word} (hbusy : s.busy = false)
    (hreset : s.resetReq = false) (hmove : ∀ m q, s.busQueue ≠ .move m :: q) (hhost : s.hostQueue = w :: rest) :
    step s = acceptStep w rest s := by
  rw [step_block hreset hmove]
  simp [blockStep, hbusy, hhost]

/-- An illegal word is answered in the step that accepts it (R274). -/
theorem acceptStep_illegal {w : Word} {why : IllegalReason} (hw : decode w = .illegal why) (rest : List Word)
    (s : State) : acceptStep w rest s = .next (raise .illegalCommand w (accept w rest s)) := by
  simp only [acceptStep, hw]

/-- Settles O3: the conditions opcode by opcode, and the answer as the acceptance followed by the error. -/
theorem illegalWordsAreRefused : Obligations.IllegalWordsAreRefused := by
  unfold Obligations.IllegalWordsAreRefused
  refine ⟨decode_illegal_iff, fun s w rest why hbusy hreset hmove hhost hw => ?_⟩
  rw [step_acceptStep hbusy hreset hmove hhost, acceptStep_illegal hw]
  simp [raise, finish, accept, logEvent, ErrorKind.code]

end Sys2Proof.Machine
end

section
/-! PROOF. Operand assembly (spec/30_encoding.md R112 to R116): what the concatenations and shifts of bytes and
fields are as numbers, and where a CONFIGURE word holds its register images. -/

namespace Sys2Proof.Machine

/-! ### Concatenations as numbers -/

theorem toNat_append_eq {m n : Nat} (x : BitVec m) (y : BitVec n) :
    (x ++ y).toNat = x.toNat * 2 ^ n + y.toNat := by
  rw [BitVec.toNat_append, ← Nat.shiftLeft_add_eq_or_of_lt y.isLt, Nat.shiftLeft_eq]

theorem toInt_append_eq {m n : Nat} (hm : 0 < m) (x : BitVec m) (y : BitVec n) :
    (x ++ y).toInt = x.toInt * 2 ^ n + y.toNat := by
  rw [BitVec.toInt_append, if_neg (by simpa using hm.ne'), mul_comm]

/-! ### Raw codes (R112) -/

theorem code24_toNat (b0 b1 b2 : Byte) :
    (code24 b0 b1 b2).toNat = b0.toNat * 65536 + b1.toNat * 256 + b2.toNat := by
  simp only [code24, toNat_append_eq]
  omega

theorem code16_toNat (b0 b1 : Byte) : (code16 b0 b1).toNat = b0.toNat * 256 + b1.toNat := toNat_append_eq b0 b1

/-- The code without its low nibble fits in 20 bits. -/
theorem adc20_toNat (code : BitVec 24) : (adc20 code).toNat = code.toNat / 16 := by
  have := code.isLt
  rw [adc20, BitVec.toNat_setWidth, BitVec.toNat_ushiftRight, Nat.shiftRight_eq_div_pow]
  omega

theorem adc16_toNat (code : BitVec 16) : (adc16 code).toNat = code.toNat :=
  BitVec.toNat_setWidth_of_le (by decide)

/-- Settles O9: each code is far below `2^31`, so its signed and unsigned values agree. -/
theorem rawCodesAssemble : Obligations.RawCodesAssemble := by
  unfold Obligations.RawCodesAssemble
  intro b0 b1 b2
  have h20 : (adc20 (code24 b0 b1 b2)).toNat < 2 ^ 20 := by
    have := (code24 b0 b1 b2).isLt
    rw [adc20_toNat]
    omega
  have h16 : (adc16 (code16 b0 b1)).toNat < 2 ^ 16 := by
    rw [adc16_toNat]
    exact (code16 b0 b1).isLt
  refine ⟨?_, ?_, h20, h16⟩
  · rw [BitVec.toInt_eq_toNat_of_lt (by omega), adc20_toNat, code24_toNat]
  · rw [BitVec.toInt_eq_toNat_of_lt (by omega), adc16_toNat, code16_toNat]

/-! ### Coefficients (R113 to R115) -/

theorem le16_toNat (lo hi : Byte) : (le16 lo hi).toNat = hi.toNat * 256 + lo.toNat := toNat_append_eq hi lo

theorem le16_toInt (lo hi : Byte) : (le16 lo hi).toInt = hi.toInt * 256 + lo.toNat :=
  toInt_append_eq (by decide) hi lo

/-- `H4` and `H5`: a signed byte above a nibble, sign-extended, which no 16-bit operation on the way overflows. -/
theorem signedByte_nibble_toInt (b : Byte) (nibble : BitVec 4) :
    (sext 16 b * 16#16 + zext 16 nibble).toInt = b.toInt * 16 + nibble.toNat := by
  have hlow := BitVec.le_toInt b
  have hhigh := BitVec.toInt_lt (x := b)
  have hnibble := nibble.isLt
  have hsext : (sext 16 b).toInt = b.toInt := BitVec.toInt_signExtend_of_le (by decide)
  have hzext : (zext 16 nibble).toInt = nibble.toNat := by
    rw [zext, BitVec.toInt_setWidth]
    exact Int.bmod_eq_of_le_mul_two (by omega) (by omega)
  have hsixteen : (16#16).toInt = 16 := by decide
  rw [BitVec.toInt_add, BitVec.toInt_mul, hsext, hzext, hsixteen, Int.bmod_add_bmod]
  exact Int.bmod_eq_of_le_mul_two (by omega) (by omega)

theorem assembleH4_toInt (e4 e5 : Byte) : (assembleH4 e4 e5).toInt = e4.toInt * 16 + (e5.toNat % 16 : Nat) := by
  rw [assembleH4, signedByte_nibble_toInt, BitVec.extractLsb'_toNat, Nat.shiftRight_zero]

theorem assembleH5_toInt (e5 e6 : Byte) : (assembleH5 e5 e6).toInt = e6.toInt * 16 + (e5.toNat / 16 : Nat) := by
  have := e5.isLt
  rw [assembleH5, signedByte_nibble_toInt, BitVec.extractLsb'_toNat, Nat.shiftRight_eq_div_pow,
    Nat.mod_eq_of_lt (by omega)]

/-- The 12-bit range of `H4` and `H5`. -/
theorem signedByte_nibble_range (b : Byte) {nibble : Nat} (h : nibble < 16) :
    -2048 ≤ b.toInt * 16 + (nibble : Int) ∧ b.toInt * 16 + (nibble : Int) ≤ 2047 := by
  have hlow := BitVec.le_toInt b
  have hhigh := BitVec.toInt_lt (x := b)
  omega

theorem byte_toInt_eq_ite (b : Byte) : b.toInt = if 128 ≤ b.toNat then (b.toNat : Int) - 256 else b.toNat := by
  rw [BitVec.toInt_eq_toNat_cond]
  split_ifs <;> omega

/-- Settles O10, row by row. -/
theorem coefficientsAssemble : Obligations.CoefficientsAssemble := by
  unfold Obligations.CoefficientsAssemble
  intro c l b0 b1
  refine ⟨fun r hr => ⟨le16 b0 b1, le16_toNat b0 b1, le16_toInt b0 b1, ?_⟩, rfl, rfl, rfl, byte_toInt_eq_ite b0,
    ⟨_, rfl, assembleH4_toInt l.e4 b0, ?_⟩, ⟨_, rfl, assembleH5_toInt l.e5b b0, ?_⟩⟩
  · simp only [List.mem_cons, List.not_mem_nil, or_false] at hr
    obtain rfl | rfl | rfl | rfl | rfl | rfl | rfl | rfl | rfl | rfl | rfl | rfl | rfl := hr <;> rfl
  · rw [assembleH4_toInt]
    exact signedByte_nibble_range l.e4 (Nat.mod_lt _ (by decide))
  · rw [assembleH5_toInt]
    exact signedByte_nibble_range b0 (Nat.div_lt_of_lt_mul l.e5b.isLt)

/-! ### Register images (R116) -/

/-- Each image is its fields side by side. -/
theorem imgCtrlHum_eq_append (c : SamplingConfig) : imgCtrlHum c = 0#5 ++ c.osrsH := by
  have himage : ∀ osrsH : BitVec 3, zext 8 osrsH = 0#5 ++ osrsH := by decide
  exact himage c.osrsH

theorem imgConfig_eq_append (c : SamplingConfig) : imgConfig c = c.tSb ++ c.filter ++ 0#2 := by
  have himage : ∀ tSb filter : BitVec 3, (zext 8 tSb <<< 5) ||| (zext 8 filter <<< 2) = tSb ++ filter ++ 0#2 := by
    decide
  exact himage c.tSb c.filter

theorem imgCtrlMeas_eq_append (c : SamplingConfig) : imgCtrlMeas c = c.osrsT ++ c.osrsP ++ c.mode := by
  have himage : ∀ (osrsT osrsP : BitVec 3) (mode : BitVec 2),
      (zext 8 osrsT <<< 5) ||| (zext 8 osrsP <<< 2) ||| zext 8 mode = osrsT ++ osrsP ++ mode := by decide
  exact himage c.osrsT c.osrsP c.mode

theorem imgCtrlHum_toNat (c : SamplingConfig) : (imgCtrlHum c).toNat = c.osrsH.toNat := by
  rw [imgCtrlHum_eq_append, toNat_append_eq, BitVec.toNat_zero, zero_mul, zero_add]

theorem imgConfig_toNat (c : SamplingConfig) : (imgConfig c).toNat = c.tSb.toNat * 32 + c.filter.toNat * 4 := by
  simp only [imgConfig_eq_append, toNat_append_eq, BitVec.toNat_zero]
  omega

theorem imgCtrlMeas_toNat (c : SamplingConfig) :
    (imgCtrlMeas c).toNat = c.osrsT.toNat * 32 + c.osrsP.toNat * 4 + c.mode.toNat := by
  simp only [imgCtrlMeas_eq_append, toNat_append_eq]
  omega

/-- Settles O6: the operands are the word's fields, and fields side by side are one field. -/
theorem configureWordHoldsImages : Obligations.ConfigureWordHoldsImages := by
  unfold Obligations.ConfigureWordHoldsImages
  intro w md ot opr oh flt sb h c
  obtain ⟨-, ⟨-, rfl, rfl, rfl, rfl, rfl, rfl⟩, -⟩ := (decode_eq_command_iff w _).mp h
  refine ⟨imgCtrlHum_toNat c, imgConfig_toNat c, imgCtrlMeas_toNat c, imgCtrlHum_eq_append c, ?_, ?_⟩
  · have hfields : c.tSb ++ c.filter = w.extractLsb' 11 6 := (append_eq_extractLsb'_iff _ _).mpr ⟨rfl, rfl⟩
    rw [imgConfig_eq_append, hfields]
  · have hcodes : c.osrsT ++ c.osrsP = w.extractLsb' 2 6 := (append_eq_extractLsb'_iff _ _).mpr ⟨rfl, rfl⟩
    rw [imgCtrlMeas_eq_append]
    exact (append_eq_extractLsb'_iff _ _).mpr ⟨hcodes, rfl⟩

end Sys2Proof.Machine
end

section
/-! PROOF. The assembler (spec/30_encoding.md R118, R119): the name tables of R104 to R107 both ways, and which
lines of tokens are commands. -/

namespace Sys2Proof.Machine

/-! ### A table of names -/

/-- The code found for a token is one of the table's. -/
theorem mem_of_codeOf {n : Nat} {names : List (Token × BitVec n)} {t : Token} {code : BitVec n}
    (h : codeOf names t = some code) : (t, code) ∈ names := by
  induction names with
  | nil => cases h
  | cons x rest ih =>
    obtain ⟨name, c⟩ := x
    rw [codeOf] at h
    split_ifs at h with hname
    · cases h
      rw [hname]
      exact List.mem_cons_self
    · exact List.mem_cons_of_mem _ (ih h)

/-- Only the names of a rule's table have a code in the assembler's table of the same pairs. -/
theorem isName_of_codeOf {n : Nat} {table : List (String × BitVec n)} {t : Token} {code : BitVec n}
    (h : codeOf (table.map fun x => (x.1.toList, x.2)) t = some code) : isName table t = true := by
  obtain ⟨x, hx, hpair⟩ := List.mem_map.mp (mem_of_codeOf h)
  cases hpair
  exact List.any_eq_true.mpr ⟨x, hx, beq_self_eq_true _⟩

/-! ### The tables of R104 to R107 -/

/-! Every name of a rule has its code. -/

theorem codeOf_modeNames : ∀ x ∈ modeCodes, codeOf modeNames x.1.toList = some x.2 := by decide
theorem codeOf_osrsNames : ∀ x ∈ osrsCodes, codeOf osrsNames x.1.toList = some x.2 := by decide
theorem codeOf_filterNames : ∀ x ∈ filterCodes, codeOf filterNames x.1.toList = some x.2 := by decide
theorem codeOf_standbyNames : ∀ x ∈ standbyCodes, codeOf standbyNames x.1.toList = some x.2 := by decide

/-! The code of every name is legal. -/

theorem modeLegal_of_codeOf {t : Token} {md : BitVec 2} (h : codeOf modeNames t = some md) : modeLegal md = true := by
  have hall : ∀ x ∈ modeNames, modeLegal x.2 = true := by decide
  exact hall _ (mem_of_codeOf h)

theorem osrsLegal_of_codeOf {t : Token} {o : BitVec 3} (h : codeOf osrsNames t = some o) : osrsLegal o = true := by
  have hall : ∀ x ∈ osrsNames, osrsLegal x.2 = true := by decide
  exact hall _ (mem_of_codeOf h)

theorem filterLegal_of_codeOf {t : Token} {f : BitVec 3} (h : codeOf filterNames t = some f) :
    filterLegal f = true := by
  have hall : ∀ x ∈ filterNames, filterLegal x.2 = true := by decide
  exact hall _ (mem_of_codeOf h)

/-! Every legal code has a name, which has that code. -/

theorem modeName_of_legal {md : BitVec 2} (h : modeLegal md = true) :
    ∃ t, nameOf modeNames md = some t ∧ codeOf modeNames t = some md := by
  have hall : ∀ md, modeLegal md = true → (nameOf modeNames md).bind (codeOf modeNames) = some md := by decide
  exact Option.bind_eq_some_iff.mp (hall md h)

theorem osrsName_of_legal {o : BitVec 3} (h : osrsLegal o = true) :
    ∃ t, nameOf osrsNames o = some t ∧ codeOf osrsNames t = some o := by
  have hall : ∀ o, osrsLegal o = true → (nameOf osrsNames o).bind (codeOf osrsNames) = some o := by decide
  exact Option.bind_eq_some_iff.mp (hall o h)

theorem filterName_of_legal {f : BitVec 3} (h : filterLegal f = true) :
    ∃ t, nameOf filterNames f = some t ∧ codeOf filterNames t = some f := by
  have hall : ∀ f, filterLegal f = true → (nameOf filterNames f).bind (codeOf filterNames) = some f := by decide
  exact Option.bind_eq_some_iff.mp (hall f h)

theorem standbyName (sb : BitVec 3) :
    ∃ t, nameOf standbyNames sb = some t ∧ codeOf standbyNames t = some sb := by
  have hall : ∀ sb, (nameOf standbyNames sb).bind (codeOf standbyNames) = some sb := by decide
  exact Option.bind_eq_some_iff.mp (hall sb)

/-! ### Lines of tokens -/

theorem assembleTokens_configureTokens (md ot opr oh flt sb : Token) :
    assembleTokens (configureTokens md ot opr oh flt sb) = configureCommand md ot opr oh flt sb :=
  rfl

/-- Six names that have codes make the CONFIGURE with these codes. -/
theorem configureCommand_of_codes {md ot opr oh flt sb : Token} {cmd : BitVec 2} {cot copr coh cflt csb : BitVec 3}
    (hmd : codeOf modeNames md = some cmd) (hot : codeOf osrsNames ot = some cot)
    (hopr : codeOf osrsNames opr = some copr) (hoh : codeOf osrsNames oh = some coh)
    (hflt : codeOf filterNames flt = some cflt) (hsb : codeOf standbyNames sb = some csb) :
    configureCommand md ot opr oh flt sb = .command (.configure cmd cot copr coh cflt csb) := by
  simp only [configureCommand, hmd, hot, hopr, hoh, hflt, hsb]

/-- A line of operand names is an error or the CONFIGURE with their codes. -/
theorem configureCommand_cases (md ot opr oh flt sb : Token) :
    configureCommand md ot opr oh flt sb = .error ∨
    ∃ cmd cot copr coh cflt csb,
      codeOf modeNames md = some cmd ∧ codeOf osrsNames ot = some cot ∧ codeOf osrsNames opr = some copr ∧
      codeOf osrsNames oh = some coh ∧ codeOf filterNames flt = some cflt ∧ codeOf standbyNames sb = some csb ∧
      configureCommand md ot opr oh flt sb = .command (.configure cmd cot copr coh cflt csb) := by
  unfold configureCommand
  split
  case h_1 cmd cot copr coh cflt csb hmd hot hopr hoh hflt hsb =>
    exact .inr ⟨cmd, cot, copr, coh, cflt, csb, hmd, hot, hopr, hoh, hflt, hsb, rfl⟩
  case h_2 => exact .inl rfl

theorem configureCommand_wellFormed {md ot opr oh flt sb : Token} {i : Instr}
    (h : configureCommand md ot opr oh flt sb = .command i) : i.wellFormed = true := by
  obtain herror | ⟨cmd, cot, copr, coh, cflt, csb, hmd, hot, hopr, hoh, hflt, -, hcommand⟩ :=
    configureCommand_cases md ot opr oh flt sb
  · rw [herror] at h; cases h
  · rw [hcommand] at h
    cases h
    simp only [Instr.wellFormed, modeLegal_of_codeOf hmd, osrsLegal_of_codeOf hot, osrsLegal_of_codeOf hopr,
      osrsLegal_of_codeOf hoh, filterLegal_of_codeOf hflt, Bool.and_self]

theorem plainCommand_wellFormed {op : Token} {i : Instr} (h : plainCommand op = .command i) :
    i.wellFormed = true := by
  unfold plainCommand at h
  split_ifs at h <;> cases h <;> rfl

/-- Tokens assemble to well-formed commands only. -/
theorem assembleTokens_wellFormed {ts : List Token} {i : Instr} (h : assembleTokens ts = .command i) :
    i.wellFormed = true := by
  unfold assembleTokens at h
  split at h
  case h_1 => cases h
  case h_2 op => exact plainCommand_wellFormed h
  case h_3 =>
    split_ifs at h
    exact configureCommand_wellFormed h
  case h_4 => cases h

/-- Settles O7: the codes of the names are legal, and a well-formed command's word decodes to it. -/
theorem assembledLinesAreLegal : Obligations.AssembledLinesAreLegal := by
  unfold Obligations.AssembledLinesAreLegal
  intro line i h
  have hwf := assembleTokens_wellFormed h
  exact ⟨hwf, decodeOfEncode i hwf⟩

/-- A token outside its operand's list of names makes the line an error (R118). -/
theorem configureCommand_error {md ot opr oh flt sb : Token}
    (h : isName modeCodes md = false ∨ isName osrsCodes ot = false ∨ isName osrsCodes opr = false ∨
      isName osrsCodes oh = false ∨ isName filterCodes flt = false ∨ isName standbyCodes sb = false) :
    configureCommand md ot opr oh flt sb = .error := by
  obtain herror | ⟨cmd, cot, copr, coh, cflt, csb, hmd, hot, hopr, hoh, hflt, hsb, -⟩ :=
    configureCommand_cases md ot opr oh flt sb
  · exact herror
  · have hname_md : isName modeCodes md = true := isName_of_codeOf hmd
    have hname_ot : isName osrsCodes ot = true := isName_of_codeOf hot
    have hname_opr : isName osrsCodes opr = true := isName_of_codeOf hopr
    have hname_oh : isName osrsCodes oh = true := isName_of_codeOf hoh
    have hname_flt : isName filterCodes flt = true := isName_of_codeOf hflt
    have hname_sb : isName standbyCodes sb = true := isName_of_codeOf hsb
    simp only [hname_md, hname_ot, hname_opr, hname_oh, hname_flt, hname_sb, Bool.true_eq_false, or_self] at h

/-- Every well-formed command has tokens, and they assemble to it. -/
theorem tokensOf_assemble {i : Instr} (hwf : i.wellFormed = true) :
    ∃ ts, tokensOf i = some ts ∧ assembleTokens ts = .command i := by
  cases i with
  | init => exact ⟨_, rfl, rfl⟩
  | readT => exact ⟨_, rfl, rfl⟩
  | readP fresh => cases fresh <;> exact ⟨_, rfl, rfl⟩
  | readH fresh => cases fresh <;> exact ⟨_, rfl, rfl⟩
  | configure md ot opr oh flt sb =>
    simp only [Instr.wellFormed, Bool.and_eq_true] at hwf
    obtain ⟨⟨⟨⟨hmd, hot⟩, hopr⟩, hoh⟩, hflt⟩ := hwf
    obtain ⟨tmd, hname_md, hcode_md⟩ := modeName_of_legal hmd
    obtain ⟨tot, hname_ot, hcode_ot⟩ := osrsName_of_legal hot
    obtain ⟨topr, hname_opr, hcode_opr⟩ := osrsName_of_legal hopr
    obtain ⟨toh, hname_oh, hcode_oh⟩ := osrsName_of_legal hoh
    obtain ⟨tflt, hname_flt, hcode_flt⟩ := filterName_of_legal hflt
    obtain ⟨tsb, hname_sb, hcode_sb⟩ := standbyName sb
    refine ⟨configureTokens tmd tot topr toh tflt tsb, ?_, ?_⟩
    · simp only [tokensOf, hname_md, hname_ot, hname_opr, hname_oh, hname_flt, hname_sb,
        configureTokens]
    · rw [assembleTokens_configureTokens]
      exact configureCommand_of_codes hcode_md hcode_ot hcode_opr hcode_oh hcode_flt hcode_sb

/-- Settles O8: a line of operand names is as good as its six codes, and legal codes and names are paired one to
one. -/
theorem tokensAssembleBack : Obligations.TokensAssembleBack := by
  unfold Obligations.TokensAssembleBack
  refine ⟨fun md hmd ot hot opr hopr oh hoh flt hflt sb hsb => ?_, fun md ot opr oh flt sb h => ?_,
    ⟨rfl, rfl, rfl, rfl, rfl, rfl⟩, fun i hwf => tokensOf_assemble hwf⟩
  · rw [assembleTokens_configureTokens]
    exact configureCommand_of_codes (codeOf_modeNames md hmd) (codeOf_osrsNames ot hot) (codeOf_osrsNames opr hopr)
      (codeOf_osrsNames oh hoh) (codeOf_filterNames flt hflt) (codeOf_standbyNames sb hsb)
  · rw [assembleTokens_configureTokens]
    exact configureCommand_error h

end Sys2Proof.Machine
end

section
/-! PROOF. The statements of INIT (spec/40_lifecycle.md R140 to R149): the next state of each, given what its port
answers. -/

namespace Sys2Proof.Machine

section
variable {s : State} {p : InitPos} {a : BusAnswer} {rest : List BusItem}

/-! ### The delay port -/

/-- `delay` when it has been reported done (R284). -/
theorem delay_done {d : DelayName} {k : Nat} (h : s.delayDone = k + 1) :
    delay d s = some (logEvent (.delay d) { s with delayDone := k }) := by simp only [delay, h]

/-- `delay` before its report (R291). -/
theorem delay_waiting {d : DelayName} (h : s.delayDone = 0) : delay d s = none := by simp only [delay, h]

/-! ### A failure (R148) -/

/-- The whole state after a failure of INIT whose transaction was `e`: the record holds `e`, then the response. -/
theorem initFail_logEvent (error : ErrorKind) (info : Word) (e : Event) :
    initFail error info (logEvent e s) = { s with
      life := .failed, failCode := error.code, calValid := false, cfgValid := false, tfineValid := false,
      resp := { status := error.code, value := info, flags := 0#3 }, respValid := true, seq := .idle, busy := false,
      events := s.events ++ [e, .response { status := error.code, value := info, flags := 0#3 }] } := by
  simp only [initFail, initFailEffects, raise, finish, logEvent, List.append_assoc, List.cons_append, List.nil_append]

/-! ### The entry (R140, R141) -/

theorem exec_init_at (hs : s.seq = .init p) : exec .init s = initAt p s := by simp only [exec, execInit, hs]

theorem init_entry (hs : s.seq = .idle) (hlife : s.life ≠ .ready) :
    exec .init s = .next { s with
      calValid := false, tfineValid := false, tfineSent := false, cfgValid := false, seq := .init .checkId } := by
  simp only [exec, execInit, hs, initEntry, if_neg hlife]

theorem init_rejected (hs : s.seq = .idle) (hlife : s.life = .ready) :
    exec .init s = .next (raise .alreadyInitialized 0#32 s) := by
  simp only [exec, execInit, hs, initEntry, if_pos hlife]

/-! ### The chip-ID check (R142) -/

section
variable {id x y : Byte}

theorem init_checkId_right (hs : s.seq = .init .checkId) (hq : s.busQueue = .answer a :: rest)
    (hb : a.bytes s.dev Config.regId = some (id, x, y)) (hid : id = Config.chipId) :
    exec .init s = .next { logEvent (.read Config.regId 1 (some [id])) { s with busQueue := rest } with
      seq := .init .reset } := by
  simp only [exec_init_at hs, initAt, initCheckId, memRead_ack hq hb, if_pos hid]
  rfl

theorem init_checkId_wrong (hs : s.seq = .init .checkId) (hq : s.busQueue = .answer a :: rest)
    (hb : a.bytes s.dev Config.regId = some (id, x, y)) (hid : id ≠ Config.chipId) :
    exec .init s = .next (initFail .wrongDevice (zext 32 id)
      (logEvent (.read Config.regId 1 (some [id])) { s with busQueue := rest })) := by
  simp only [exec_init_at hs, initAt, initCheckId, memRead_ack hq hb, if_neg hid]
  rfl

end

/-! ### The soft reset (R143) -/

theorem init_reset_written {k : Bool} (hs : s.seq = .init .reset) (hq : s.busQueue = .answer a :: rest)
    (hk : a.takes = some k) :
    exec .init s = .next { logEvent (.write Config.regReset Config.resetCode true)
      { s with busQueue := rest, dev := s.dev.write k Config.regReset Config.resetCode } with
      seq := .init .resetSettle } := by
  simp only [exec_init_at hs, initAt, initReset, memWrite_ack hq hk]

theorem init_resetSettle_done {k : Nat} (hs : s.seq = .init .resetSettle) (hd : s.delayDone = k + 1) :
    exec .init s = .next { logEvent (.delay .tResetSettle) { s with delayDone := k } with
      polls := 0, seq := .init .poll } := by
  simp only [exec_init_at hs, initAt, initResetSettle, delay_done hd]

theorem init_resetSettle_waiting (hs : s.seq = .init .resetSettle) (hd : s.delayDone = 0) :
    exec .init s = .next s := by
  simp only [exec_init_at hs, initAt, initResetSettle, delay_waiting hd]

/-! ### The poll (R144) -/

section
variable {st x y : Byte}

theorem init_poll_clear (hs : s.seq = .init .poll) (hq : s.busQueue = .answer a :: rest)
    (hb : a.bytes s.dev Config.regStatus = some (st, x, y)) (hst : st.getLsbD 0 = false) :
    exec .init s = .next { logEvent (.read Config.regStatus 1 (some [st])) { s with busQueue := rest } with
      seq := .init (.loadCal .t1) } := by
  simp only [exec_init_at hs, initAt, initPoll, memRead_ack hq hb, hst, Bool.false_eq_true, if_false]
  rfl

theorem init_poll_set (hs : s.seq = .init .poll) (hq : s.busQueue = .answer a :: rest)
    (hb : a.bytes s.dev Config.regStatus = some (st, x, y)) (hst : st.getLsbD 0 = true) :
    exec .init s = .next (initBusy (logEvent (.read Config.regStatus 1 (some [st])) { s with busQueue := rest })) := by
  simp only [exec_init_at hs, initAt, initPoll, memRead_ack hq hb, hst, if_true]
  rfl

theorem initBusy_below (h : s.polls + 1 ≠ s.calPollLimit) :
    initBusy s = { s with polls := s.polls + 1, seq := .init .pollWait } := if_neg h

theorem initBusy_limit (h : s.polls + 1 = s.calPollLimit) :
    initBusy s = initFail .calibrationTimeout (BitVec.ofNat 32 s.calPollLimit) { s with polls := s.polls + 1 } := by
  rw [initBusy, if_pos h, h]

theorem init_poll_busy (hs : s.seq = .init .poll) (hq : s.busQueue = .answer a :: rest)
    (hb : a.bytes s.dev Config.regStatus = some (st, x, y)) (hst : st.getLsbD 0 = true)
    (hlimit : s.polls + 1 ≠ s.calPollLimit) :
    exec .init s = .next { logEvent (.read Config.regStatus 1 (some [st])) { s with busQueue := rest } with
      polls := s.polls + 1, seq := .init .pollWait } := by
  rw [init_poll_set hs hq hb hst]
  exact congrArg Host.Outcome.next (initBusy_below hlimit)

theorem init_poll_timeout (hs : s.seq = .init .poll) (hq : s.busQueue = .answer a :: rest)
    (hb : a.bytes s.dev Config.regStatus = some (st, x, y)) (hst : st.getLsbD 0 = true)
    (hlimit : s.polls + 1 = s.calPollLimit) :
    exec .init s = .next (initFail .calibrationTimeout (BitVec.ofNat 32 s.calPollLimit)
      (logEvent (.read Config.regStatus 1 (some [st])) { s with busQueue := rest, polls := s.polls + 1 })) := by
  rw [init_poll_set hs hq hb hst]
  exact congrArg Host.Outcome.next (initBusy_limit hlimit)

end

theorem init_pollWait_done {k : Nat} (hs : s.seq = .init .pollWait) (hd : s.delayDone = k + 1) :
    exec .init s = .next { logEvent (.delay .tPollInterval) { s with delayDone := k } with seq := .init .poll } := by
  simp only [exec_init_at hs, initAt, initPollWait, delay_done hd]

/-! ### The calibration load (R145) -/

section
variable {r r' : CalRow} {b : Byte × Byte × Byte}

/-- What a row's read has changed when the row is loaded: the row's coefficient or local variable. -/
def rowLoaded (r : CalRow) (b : Byte × Byte × Byte) (rest : List BusItem) (s : State) : State :=
  { logEvent (.read r.addr r.len (some (firstBytes r.len b.1 b.2.1 b.2.2))) { s with busQueue := rest } with
    cal := r.load s.cal s.tmp b.1 b.2.1, tmp := r.keep s.tmp b.1 }

theorem init_loadCal_row (hs : s.seq = .init (.loadCal r))
    (hq : s.busQueue = .answer a :: rest) (hb : a.bytes s.dev r.addr = some b) (hnext : r.next = some r') :
    exec .init s = .next { rowLoaded r b rest s with seq := .init (.loadCal r') } := by
  simp only [exec_init_at hs, initAt, initLoadCal, memRead_ack hq hb, hnext]
  rfl

theorem init_loadCal_last (hs : s.seq = .init (.loadCal .h6))
    (hq : s.busQueue = .answer a :: rest) (hb : a.bytes s.dev CalRow.h6.addr = some b) :
    exec .init s = .next { rowLoaded .h6 b rest s with
      calValid := true, tfineValid := false, cfgValid := false, seq := .init (.applyDefault .ctrlHum) } := by
  simp only [exec_init_at hs, initAt, initLoadCal, memRead_ack hq hb]
  rfl

end

/-! ### The default configuration (R146) -/

/-- What an acknowledged write of the default configuration has changed: the device and the record. -/
def defaultWritten (w : CfgWrite) (k : Bool) (rest : List BusItem) (s : State) : State :=
  logEvent (.write w.addr (w.image Config.defaultConfig) true)
    { s with busQueue := rest, dev := s.dev.write k w.addr (w.image Config.defaultConfig) }

theorem init_default_write {w w' : CfgWrite} {k : Bool} (hs : s.seq = .init (.applyDefault w))
    (hq : s.busQueue = .answer a :: rest) (hk : a.takes = some k) (hnext : w.next = some w') :
    exec .init s = .next { defaultWritten w k rest s with seq := .init (.applyDefault w') } := by
  simp only [exec_init_at hs, initAt, initApplyDefault, applyConfigWrite, memWrite_ack hq hk, hnext]
  rfl

theorem init_default_last {k : Bool} (hs : s.seq = .init (.applyDefault .ctrlMeas))
    (hq : s.busQueue = .answer a :: rest) (hk : a.takes = some k) :
    exec .init s = .next { defaultWritten .ctrlMeas k rest s with
      cfg := Config.defaultConfig, cfgValid := true, seq := .init .finalSettle } := by
  simp only [exec_init_at hs, initAt, initApplyDefault, applyConfigWrite, memWrite_ack hq hk]
  rfl

/-! ### The final settle and the response (R147) -/

theorem init_finalSettle_done {k : Nat} (hs : s.seq = .init .finalSettle) (hd : s.delayDone = k + 1) :
    exec .init s = .next { logEvent (.delay .tInitSettle) { s with delayDone := k } with
      life := .ready, failCode := 0#4, seq := .init .respond } := by
  simp only [exec_init_at hs, initAt, initFinalSettle, delay_done hd]

theorem init_respond (hs : s.seq = .init .respond) : exec .init s = .next (respondOk 0#32 0#3 s) := by
  simp only [exec_init_at hs, initAt]

end

/-! ### The obligations about one statement each, or a few -/

/-- Settles O18, by the two sides of the lifecycle check. -/
theorem initRunsUnlessReady : Obligations.InitRunsUnlessReady := by
  unfold Obligations.InitRunsUnlessReady
  exact fun s hs => ⟨init_entry hs, init_rejected hs⟩

/-- Settles O21, by the two sides of the comparison. -/
theorem initChecksChipId : Obligations.InitChecksChipId := by
  unfold Obligations.InitChecksChipId
  intro s a rest id x y hs hq hb
  refine ⟨fun hid => init_checkId_right hs hq hb hid, fun hid => ?_⟩
  rw [init_checkId_wrong hs hq hb hid, initFail_logEvent]
  rfl

/-- Settles O22: the write, the delay's report, and the wait for it. -/
theorem initSoftResets : Obligations.InitSoftResets := by
  unfold Obligations.InitSoftResets
  exact ⟨fun s a rest k hs hq hk => init_reset_written hs hq hk, fun s k hs hd => init_resetSettle_done hs hd,
    fun s hs hd => init_resetSettle_waiting hs hd⟩

/-- Settles O23: a status read by bit 0 and the limit, and the delay between two reads. -/
theorem initPollsBusyBit : Obligations.InitPollsBusyBit := by
  unfold Obligations.InitPollsBusyBit
  refine ⟨fun s a rest st x y hs hq hb => ⟨fun hst => init_poll_clear hs hq hb hst,
    fun hst hlimit => init_poll_busy hs hq hb hst hlimit, fun hst hlimit => ?_⟩,
    fun s k hs hd => init_pollWait_done hs hd⟩
  rw [init_poll_timeout hs hq hb hst hlimit, initFail_logEvent]
  rfl

/-- Settles O26, write by write. -/
theorem initAppliesDefault : Obligations.InitAppliesDefault := by
  unfold Obligations.InitAppliesDefault
  intro s a1 a2 a3 k1 k2 k3 rest hs hq hk1 hk2 hk3
  refine ⟨_, _, init_default_write hs hq hk1 rfl, init_default_write rfl rfl hk2 rfl, ?_⟩
  rw [init_default_last rfl rfl hk3]
  simp only [defaultWritten, logEvent, List.append_assoc, List.cons_append, List.nil_append]
  rfl

/-- Settles O27, by the statement of the delay and that of the response. -/
theorem initSettlesAndResponds : Obligations.InitSettlesAndResponds := by
  unfold Obligations.InitSettlesAndResponds
  intro s k hs hd
  refine ⟨_, init_finalSettle_done hs hd, rfl, rfl, ?_⟩
  rw [init_respond rfl]
  simp only [respondOk, finish, logEvent, List.append_assoc, List.cons_append, List.nil_append]

end Sys2Proof.Machine
end

section
/-! PROOF. Errors and transitions of INIT (spec/40_lifecycle.md R148, R149). -/

namespace Sys2Proof.Machine

/-! ### A NACK -/

/-- At every transaction of INIT a NACK ends the command, with the transaction as the record's last event but the
response (R148, R273). -/
theorem init_nack {s : State} {p : InitPos} {rest : List BusItem} {addr : Byte} {e : Event} (hs : s.seq = .init p)
    (hrequest : initRequest p = some (addr, e)) (hq : s.busQueue = .answer .nack :: rest) :
    exec .init s = .next (initNack addr (logEvent e { s with busQueue := rest })) := by
  rw [exec_init_at hs]
  cases p with
  | checkId => cases hrequest; simp only [initAt, initCheckId, memRead_nack hq]; rfl
  | reset => cases hrequest; simp only [initAt, initReset, memWrite_nack hq]; rfl
  | poll => cases hrequest; simp only [initAt, initPoll, memRead_nack hq]; rfl
  | loadCal r => cases hrequest; simp only [initAt, initLoadCal, memRead_nack hq]
  | applyDefault w =>
    simp only [initAt, initApplyDefault, applyConfigWrite, memWrite_nack hq]
    cases w <;> cases hrequest <;> rfl
  | resetSettle | pollWait | finalSettle | respond => cases hrequest

/-! ### Every error -/

/-- What R148 asks of a state `t` after an error of INIT, the calibration store as in `s`. -/
def InitFailed (s t : State) : Prop :=
  t.life = .failed ∧ t.failCode = t.resp.status ∧ t.calValid = false ∧ t.cfgValid = false ∧
    t.tfineValid = false ∧ t.resp.flags = 0#3 ∧ t.busy = false ∧ t.cal = s.cal

theorem initFailed_initFail {s u : State} (error : ErrorKind) (info : Word) (hcal : u.cal = s.cal) :
    InitFailed s (initFail error info u) := ⟨rfl, rfl, rfl, rfl, rfl, rfl, rfl, hcal⟩

/-- A statement at a position of INIT goes on, ends with (OK, 0, 0) from the response position, or fails. -/
theorem init_end_cases {s t : State} {p : InitPos} (hs : s.seq = .init p) (he : exec .init s = .next t) :
    t.seq ≠ .idle ∨ t.resp.status = 0#4 ∨ InitFailed s t := by
  apply init_next_elim s t he
  case waits => rintro rfl; exact .inl (by simp [hs])
  case rejected | entry => intro hidle; simp [hs] at hidle
  case readNacked | writeNacked | wrongDevice | pollTimeout =>
    intros; exact .inr (.inr (initFailed_initFail _ _ rfl))
  case responds => intro _; exact .inr (.inl rfl)
  all_goals (intros; exact .inl nofun)

/-- Settles O28: every error of INIT is an `initFail`, and a NACK is one at every transaction. -/
theorem initErrorsFail : Obligations.InitErrorsFail := by
  unfold Obligations.InitErrorsFail
  refine ⟨fun s t p hs he hidle hstatus => ?_, fun s p rest addr e hs hrequest hq => ?_⟩
  · obtain hbusy | hok | hfailed := init_end_cases hs he
    · exact absurd hidle hbusy
    · exact absurd hok hstatus
    · exact hfailed
  · rw [init_nack hs hrequest hq, initNack, initFail_logEvent]
    rfl

/-! ### The transitions -/

/-- Where a statement at the position `p` of INIT leads, as R149 lists it. -/
def InitMoves (p : InitPos) (s t : State) : Prop :=
  t = s ∨
  (∃ q, initEdge p q ∧ t.seq = .init q ∧ t.busy = s.busy ∧ t.life = (if q = .respond then .ready else s.life)) ∨
  (t.seq = .idle ∧ t.life = .failed ∧ t.resp.status ≠ 0#4 ∧ p ≠ .respond) ∨
  (t.seq = .idle ∧ t.life = s.life ∧ t.resp = { status := 0#4, value := 0#32, flags := 0#3 } ∧ p = .respond)

section
variable {s t : State} {p q : InitPos}

theorem InitMoves.along (hedge : initEdge p q) (hseq : t.seq = .init q) (hbusy : t.busy = s.busy)
    (hlife : t.life = if q = .respond then .ready else s.life) : InitMoves p s t :=
  .inr (.inl ⟨q, hedge, hseq, hbusy, hlife⟩)

theorem InitMoves.fails {u : State} (error : ErrorKind) (info : Word) (hp : p ≠ .respond) :
    InitMoves p s (initFail error info u) :=
  .inr (.inr (.inl ⟨rfl, rfl, (errorKind_code_range error).1, hp⟩))

theorem InitMoves.responds : InitMoves .respond s (respondOk 0#32 0#3 s) := .inr (.inr (.inr ⟨rfl, rfl, rfl, rfl⟩))

/-- The rows of the calibration load follow each other in the table's order (R145, R149). -/
theorem initEdge_loadCal {r r' : CalRow} (h : r.next = some r') : initEdge (.loadCal r) (.loadCal r') := by
  cases r
  case h6 => cases h
  all_goals exact ⟨r', h, rfl⟩

/-- The default writes follow each other in R146's order. -/
theorem initEdge_applyDefault {w w' : CfgWrite} (h : w.next = some w') :
    initEdge (.applyDefault w) (.applyDefault w') := by
  cases w <;> cases h <;> rfl

end

/-- Settles O29, statement by statement. -/
theorem initTransitions : Obligations.InitTransitions := by
  unfold Obligations.InitTransitions
  intro s t p hs he
  show InitMoves p s t
  have hpos {q : InitPos} (hq : s.seq = .init q) : p = q := by simpa [hs] using hq
  apply init_next_elim s t he
  case waits => exact .inl
  case rejected | entry => intro hidle; simp [hs] at hidle
  case readNacked =>
    intro q addr n rest hq hread; obtain rfl := hpos hq
    exact .fails _ _ (by rintro rfl; simp at hread)
  case writeNacked =>
    intro q addr v rest hq hwrite; obtain rfl := hpos hq
    exact .fails _ _ (by rintro rfl; simp at hwrite)
  case wrongDevice => intro rest id hq _; obtain rfl := hpos hq; exact .fails _ _ nofun
  case pollTimeout => intro rest st hq _ _; obtain rfl := hpos hq; exact .fails _ _ nofun
  case idRight => intro rest hq; obtain rfl := hpos hq; exact .along (q := .reset) rfl rfl rfl rfl
  case resetWritten => intro rest k hq; obtain rfl := hpos hq; exact .along (q := .resetSettle) rfl rfl rfl rfl
  case resetSettled => intro k hq; obtain rfl := hpos hq; exact .along (q := .poll) rfl rfl rfl rfl
  case pollClear =>
    intro rest st hq _; obtain rfl := hpos hq; exact .along (q := .loadCal .t1) (.inl rfl) rfl rfl rfl
  case pollBusy =>
    intro rest st hq _ _; obtain rfl := hpos hq; exact .along (q := .pollWait) (.inr rfl) rfl rfl rfl
  case pollWaited => intro k hq; obtain rfl := hpos hq; exact .along (q := .poll) rfl rfl rfl rfl
  case rowLoaded =>
    intro r r' rest b0 b1 b2 hq hnext; obtain rfl := hpos hq
    exact .along (initEdge_loadCal hnext) rfl rfl rfl
  case lastRowLoaded =>
    intro rest b0 b1 b2 hq; obtain rfl := hpos hq; exact .along (q := .applyDefault .ctrlHum) rfl rfl rfl rfl
  case defaultWritten =>
    intro w w' rest k hnext hq; obtain rfl := hpos hq
    exact .along (initEdge_applyDefault hnext) rfl rfl rfl
  case lastDefaultWritten =>
    intro rest k hq; obtain rfl := hpos hq; exact .along (q := .finalSettle) rfl rfl rfl rfl
  case settled => intro k hq; obtain rfl := hpos hq; exact .along (q := .respond) rfl rfl rfl rfl
  case responds => intro hq; obtain rfl := hpos hq; exact .responds

end Sys2Proof.Machine
end

section
/-! PROOF. The calibration store of a READY block (spec/40_lifecycle.md R150). -/

namespace Sys2Proof.Machine

/-- A READY block has a valid calibration store, wherever it stands (R35). -/
theorem calValid_of_validityOk {s : State} (h : s.validityOk = true) (hlife : s.life = .ready) :
    s.calValid = true := by
  unfold State.validityOk at h
  split at h
  case h_1 => exact ((idleOk_iff s).mp h).1.mp hlife
  case h_2 p _ =>
    cases p with
    | respond => simp only [State.initOk, Bool.and_eq_true] at h; simp [h]
    | _ => simp [State.initOk, hlife] at h
  all_goals simp only [State.readyOk, Bool.and_eq_true] at h; simp [h]

/-- INIT stands on a READY block at its first statement or at its response only (R140, R147). -/
theorem State.Executing.init_ready_position {s : State} (h : s.Executing .init) (hlife : s.life = .ready) :
    s.seq = .idle ∨ s.seq = .init .respond := by
  cases hs : s.seq with
  | idle => exact .inl rfl
  | init p =>
    have hvalid : s.initOk p = true := h.validityAt hs
    cases p with
    | respond => exact .inr rfl
    | _ => simp [State.initOk, hlife] at hvalid
  | _ => simpa [hs, seqFits] using h.position

/-- No command writes the calibration store or the lifecycle of a READY block (R37, R150). -/
theorem State.Executing.ready_keeps {i : Instr} {s t : State} (h : s.Executing i) (hlife : s.life = .ready)
    (he : exec i s = .next t) : t.cal = s.cal ∧ t.life = s.life := by
  have hsame (hkeeps : sameLifecycle s t) : t.cal = s.cal ∧ t.life = s.life := by
    obtain ⟨hlife', -, hcal, -, -⟩ := hkeeps
    exact ⟨hcal, hlife'⟩
  cases i with
  | init =>
    obtain hs | hs := h.init_ready_position hlife
    · rw [init_rejected hs hlife] at he; cases he; exact ⟨rfl, rfl⟩
    · rw [init_respond hs] at he; cases he; exact ⟨rfl, rfl⟩
  | configure => exact hsame (configure_keeps he).1
  | readT => exact hsame (readT_keeps he).1.1
  | readP => exact hsame (readP_keeps he).1.1
  | readH => exact hsame (readH_keeps he).1.1

theorem State.Inv.ready_keeps {s t : State} (h : s.Inv) (hlife : s.life = .ready) (hreset : s.resetReq = false)
    (he : step s = .next t) : t.cal = s.cal ∧ t.life = s.life := by
  obtain ⟨hreq, -⟩ | ⟨m, rest, -, -, hstep⟩ | ⟨-, -, -, hstep⟩ | ⟨w, rest, -, hbusy, -, hstep⟩ | ⟨-, hbusy, hstep⟩ :=
    step_cases s
  · rw [hreset] at hreq; cases hreq
  · rw [hstep] at he; cases he; exact ⟨rfl, rfl⟩
  · rw [hstep] at he; cases he; exact ⟨rfl, rfl⟩
  · rw [hstep, acceptStep] at he
    cases hw : decode w with
    | illegal why => simp only [hw] at he; cases he; exact ⟨rfl, rfl⟩
    | command i => simp only [hw] at he; exact (h.executing_accept (rest := rest) hbusy hw).ready_keeps hlife he
  · obtain ⟨i, hexec⟩ := h.executing hbusy
    rw [hstep, continueStep, hexec.word] at he
    exact hexec.ready_keeps hlife he

/-- Settles O31: a READY block keeps its coefficients, and the invariant keeps them valid. -/
theorem calibrationImmutable : Obligations.CalibrationImmutable := by
  unfold Obligations.CalibrationImmutable
  intro s t h hlife hreset he
  obtain ⟨hcal, hlife'⟩ := h.ready_keeps hlife hreset he
  have hready : t.life = .ready := hlife'.trans hlife
  exact ⟨hcal, calValid_of_validityOk (stepKeepsInv s t h he).validity hready, hready⟩

end Sys2Proof.Machine
end

section
/-! PROOF. Statements in sequence, and the poll loop of INIT (spec/40_lifecycle.md R144). -/

namespace Sys2Proof.Machine

/-! ### Statements in sequence -/

section
variable {i : Instr} {s t u : State} {j k : Nat}

theorem execTimes_one (h : exec i s = .next t) : execTimes i 1 s = .next t := by simp only [execTimes, h]

theorem execTimes_succ (h : exec i s = .next t) (h' : execTimes i k t = .next u) :
    execTimes i (k + 1) s = .next u := by simp only [execTimes, h, h']

theorem execTimes_trans (h : execTimes i j s = .next t) (h' : execTimes i k t = .next u) :
    execTimes i (j + k) s = .next u := by
  induction j generalizing s with
  | zero => cases h; rwa [Nat.zero_add]
  | succ j ih =>
    rw [execTimes] at h
    split at h
    · next v hv => rw [Nat.add_right_comm]; exact execTimes_succ hv (ih h)
    · cases h
    · cases h

end

/-! ### The poll loop (R144) -/

/-- The events of the busy status reads `bs`, each with the delay after it. -/
def pollEvents (bs : List Byte) : List Event :=
  bs.flatMap fun b => [.read Config.regStatus 1 (some [b]), .delay .tPollInterval]

/-- Busy status reads below the limit change only the count of polls, the ports and the record. -/
theorem init_poll_loop (bs : List Byte) {s : State} {rest : List BusItem} {d : Nat} (hs : s.seq = .init .poll)
    (hlimit : s.polls + bs.length < s.calPollLimit) (hbusy : ∀ b ∈ bs, b.getLsbD 0 = true)
    (hq : s.busQueue = bs.map drawn ++ rest) (hd : s.delayDone = bs.length + d) :
    execTimes .init (2 * bs.length) s = .next { s with
      busQueue := rest, delayDone := d, polls := s.polls + bs.length, events := s.events ++ pollEvents bs } := by
  induction bs generalizing s with
  | nil =>
    obtain rfl : s.busQueue = rest := hq
    obtain rfl : s.delayDone = d := by simpa using hd
    simp [execTimes, pollEvents]
  | cons b bs ih =>
    simp only [List.length_cons, List.forall_mem_cons] at hlimit hbusy hd
    obtain ⟨hb, hbs⟩ := hbusy
    have hdelay : s.delayDone = bs.length + d + 1 := by omega
    have hread := init_poll_busy hs hq rfl hb (by omega)
    refine execTimes_succ hread (execTimes_succ (init_pollWait_done rfl hdelay) ?_)
    refine (ih rfl (by simp; omega) hbs rfl rfl).trans ?_
    simp [hs, pollEvents, Nat.add_assoc, Nat.add_comm 1]

theorem countP_pollEvents (p : Event → Bool) (bs : List Byte) (n : Nat)
    (h : ∀ b, [Event.read Config.regStatus 1 (some [b]), .delay .tPollInterval].countP p = n) :
    (pollEvents bs).countP p = bs.length * n := by
  induction bs with
  | nil => simp [pollEvents]
  | cons b bs ih =>
    rw [pollEvents, List.flatMap_cons, List.countP_append, h, ← pollEvents, ih, List.length_cons]
    ring

/-- Settles O24: the poll loop below the limit, then the read that reaches it. -/
theorem pollTimesOutAtLimit : Obligations.PollTimesOutAtLimit := by
  unfold Obligations.PollTimesOutAtLimit
  intro s n sts rest d hs hpolls hlimit hlength hbusy hq hd
  obtain rfl | ⟨bs, b, rfl⟩ := List.eq_nil_or_concat' sts
  · cases hlength
  obtain rfl : bs.length = n := by simpa using hlength
  obtain ⟨hbs, hb⟩ : (∀ b ∈ bs, b.getLsbD 0 = true) ∧ b.getLsbD 0 = true := by
    simpa [or_imp, forall_and] using hbusy
  have hloop := init_poll_loop bs (rest := drawn b :: rest) hs (by omega) hbs (by simp [hq]) hd
  have hreach : s.polls + bs.length + 1 = s.calPollLimit := by omega
  have hrun := execTimes_trans hloop (execTimes_one (init_poll_timeout (by exact hs) rfl rfl hb hreach))
  rw [initFail_logEvent] at hrun
  refine ⟨_, hrun, rfl, rfl, ?_, ?_, rfl, rfl, rfl, _, List.append_assoc _ _ _, ?_, ?_⟩
  · simp [hpolls]
  · simp [hlimit, ErrorKind.code]
  · rw [List.countP_append, countP_pollEvents _ _ 1 (fun _ => rfl), Nat.mul_one]; rfl
  · rw [List.countP_append, countP_pollEvents _ _ 1 (fun _ => rfl), Nat.mul_one]; rfl

end Sys2Proof.Machine
end

section
/-! PROOF. The calibration load (spec/40_lifecycle.md R145) and, with the poll loop, a whole INIT (R140). -/

namespace Sys2Proof.Machine

/-! ### The calibration load -/

section
variable {f : CalRow → Byte × Byte × Byte}

/-- The store and the local variables after the row `r`, with the bytes `f` of its read. -/
def loadStep (f : CalRow → Byte × Byte × Byte) (c : Cal × Locals) (r : CalRow) : Cal × Locals :=
  (r.load c.1 c.2 (f r).1 (f r).2.1, r.keep c.2 (f r).1)

/-- The event of the row's read. -/
def rowRead (f : CalRow → Byte × Byte × Byte) (r : CalRow) : Event :=
  .read r.addr r.len (some (firstBytes r.len (f r).1 (f r).2.1 (f r).2.2))

/-- The state after the rows `rows`, of which the last is row 20. -/
def calLoaded (f : CalRow → Byte × Byte × Byte) (rows : List CalRow) (rest : List BusItem) (s : State) : State :=
  { s with
    busQueue := rest, cal := (rows.foldl (loadStep f) (s.cal, s.tmp)).1,
    tmp := (rows.foldl (loadStep f) (s.cal, s.tmp)).2, calValid := true, tfineValid := false, cfgValid := false,
    seq := .init (.applyDefault .ctrlHum), events := s.events ++ rows.map (rowRead f) }

/-- From the row `r`, acknowledged reads of it and the rows after it load the store. -/
theorem init_load_rows (rows : List CalRow) {r : CalRow} {s : State} {ans : CalRow → BusAnswer}
    {rest : List BusItem} (hs : s.seq = .init (.loadCal r))
    (hrows : (r :: rows).IsChain fun r r' => r.next = some r') (hlast : (r :: rows).getLast? = some .h6)
    (hans : ∀ x ∈ r :: rows, (ans x).bytes s.dev x.addr = some (f x))
    (hq : s.busQueue = (r :: rows).map (fun x => .answer (ans x)) ++ rest) :
    execTimes .init (rows.length + 1) s = .next (calLoaded f (r :: rows) rest s) := by
  induction rows generalizing r s with
  | nil =>
    obtain rfl : r = .h6 := by simpa using hlast
    exact execTimes_one (init_loadCal_last hs hq (hans .h6 (by simp)))
  | cons r' rows ih =>
    obtain ⟨hnext, hrows⟩ := List.isChain_cons_cons.mp hrows
    have hrow := init_loadCal_row hs hq (hans r (by simp)) hnext
    have hrest := ih (s := { rowLoaded r (f r) _ s with seq := .init (.loadCal r') }) rfl hrows hlast
      (fun x hx => hans x (.tail r hx)) rfl
    refine (execTimes_succ hrow hrest).trans ?_
    simp [calLoaded, rowLoaded, loadStep, rowRead]

/-- The twenty rows in the table's order (R145). -/
def calRows : List CalRow := calTable.map Prod.fst

theorem calTable_eq_map : calTable = calRows.map fun r => (r, r.addr, r.len) := rfl

/-- The twenty rows load what `calOf` says, whatever the store and the local variables held. -/
theorem calRows_load (c : Cal × Locals) : (calRows.foldl (loadStep f) c).1 = calOf f := rfl

theorem calRows_reads : calRows.map (rowRead f) = calReads f := rfl

/-- Twenty acknowledged reads load the store (R145). -/
theorem init_load {s : State} {ans : CalRow → BusAnswer} {rest : List BusItem} (hs : s.seq = .init (.loadCal .t1))
    (hans : ∀ x ∈ calTable, (ans x.1).bytes s.dev x.2.1 = some (f x.1))
    (hq : s.busQueue = calTable.map (fun x => .answer (ans x.1)) ++ rest) :
    execTimes .init 20 s = .next (calLoaded f calRows rest s) := by
  refine init_load_rows calRows.tail hs (by decide) rfl (fun x hx => ?_) hq
  exact hans (x, x.addr, x.len) (calTable_eq_map ▸ List.mem_map_of_mem hx)

end

/-- Settles O25: the rows load what `calOf` assembles. -/
theorem initLoadsCalibration : Obligations.InitLoadsCalibration := by
  unfold Obligations.InitLoadsCalibration
  intro s ans f rest hs hans hq
  exact ⟨_, init_load hs hans hq, calRows_load (s.cal, s.tmp), rfl, congrArg (s.events ++ ·) calRows_reads, rfl, rfl,
    rfl, rfl, rfl, rfl⟩

/-! ### A whole INIT -/

/-- From the entry to the poll: the chip ID is right, the reset is written, its delay reported (R140, R142, R143). -/
theorem init_start {s : State} {rest : List BusItem} {d : Nat} (hs : s.seq = .idle) (hlife : s.life ≠ .ready)
    (hq : s.busQueue = drawn Config.chipId :: drawn 0#8 :: rest) (hd : s.delayDone = d + 1) :
    execTimes .init 4 s = .next { s with
      busQueue := rest, delayDone := d, dev := s.dev.softReset, calValid := false, tfineValid := false,
      tfineSent := false, cfgValid := false, polls := 0, seq := .init .poll,
      events := s.events ++ [.read Config.regId 1 (some [Config.chipId]),
        .write Config.regReset Config.resetCode true, .delay .tResetSettle] } := by
  have hrun := execTimes_succ (init_entry hs hlife) <| execTimes_succ (init_checkId_right rfl hq rfl rfl) <|
    execTimes_succ (init_reset_written rfl rfl rfl) <| execTimes_one (init_resetSettle_done rfl hd)
  rw [hrun]
  simp [logEvent, write_resetCode]

/-- From the default configuration to the response: three writes and a delay (R146, R147). -/
theorem init_finish {s : State} {rest : List BusItem} {d : Nat} (hs : s.seq = .init (.applyDefault .ctrlHum))
    (hq : s.busQueue = drawn 0#8 :: drawn 0#8 :: drawn 0#8 :: rest) (hd : s.delayDone = d + 1) :
    execTimes .init 5 s = .next { s with
      busQueue := rest, delayDone := d,
      dev := ((s.dev.write true 0xF2#8 0x05#8).write true 0xF5#8 0x00#8).write true 0xF4#8 0xB7#8,
      cfg := Config.defaultConfig, cfgValid := true, life := .ready, failCode := 0#4,
      resp := { status := 0#4, value := 0#32, flags := 0#3 }, respValid := true, seq := .idle, busy := false,
      events := s.events ++ [.write 0xF2#8 0x05#8 true, .write 0xF5#8 0x00#8 true, .write 0xF4#8 0xB7#8 true,
        .delay .tInitSettle, .response { status := 0#4, value := 0#32, flags := 0#3 }] } := by
  obtain ⟨t1, t2, h1, h2, h3⟩ := initAppliesDefault s (.ack 0#8 0#8 0#8) (.ack 0#8 0#8 0#8) (.ack 0#8 0#8 0#8)
    true true true rest hs hq rfl rfl rfl
  have hrun := execTimes_succ h1 <| execTimes_succ h2 <| execTimes_succ h3 <|
    execTimes_succ (init_finalSettle_done rfl hd) <| execTimes_one (init_respond rfl)
  rw [hrun]
  simp only [respondOk, finish, logEvent, List.append_assoc, List.cons_append, List.nil_append]
  rfl

/-- Settles O30: the start, the poll loop, the clear read, the calibration load, the finish. -/
theorem initRunsToReady : Obligations.InitRunsToReady := by
  unfold Obligations.InitRunsToReady
  intro s busy st f rest d hs hlife hlimit hbusy hst hq hd
  have hstart := init_start (d := busy.length + (d + 1)) hs hlife hq (by omega)
  have hloop := execTimes_trans hstart (init_poll_loop busy rfl (by simpa using hlimit) hbusy rfl rfl)
  have hclear := execTimes_trans hloop (execTimes_one (init_poll_clear rfl rfl rfl hst))
  have hload := execTimes_trans hclear
    (init_load (f := f) (ans := fun r => .ack (f r).1 (f r).2.1 (f r).2.2) rfl (fun x _ => rfl) rfl)
  have hfinish := execTimes_trans hload (init_finish rfl rfl rfl)
  rw [show 4 + 2 * busy.length + 1 + 20 + 5 = 2 * busy.length + 30 by omega] at hfinish
  refine ⟨_, hfinish, rfl, rfl, calRows_load _, rfl, rfl, rfl, rfl, rfl, Nat.zero_add _, rfl, rfl, rfl, rfl, rfl,
    rfl, ?_⟩
  -- The events of the stages, appended one to the other, are those of `initEvents`.
  simp only [calLoaded, logEvent, calRows_reads, List.append_assoc]
  rfl

end Sys2Proof.Machine
end

section
/-! PROOF. The statements of CONFIGURE (spec/41_configuration.md R180 to R187): the next state of each, given what the
bus port answers, and a whole CONFIGURE. -/

namespace Sys2Proof.Machine

/-- Every answer but NACK acknowledges a write (R71). -/
theorem BusAnswer.takes_of_ne_nack {a : BusAnswer} (h : a ≠ .nack) : ∃ k, a.takes = some k := by
  cases a with
  | nack => exact absurd rfl h
  | ack b0 b1 b2 => exact ⟨true, rfl⟩
  | device k => exact ⟨k, rfl⟩

/-- CONFIGURE runs with its operands as one configuration (R180). -/
theorem exec_configure (md : BitVec 2) (ot opr oh flt sb : BitVec 3) (s : State) :
    exec (.configure md ot opr oh flt sb) s =
      configureStep { mode := md, osrsT := ot, osrsP := opr, osrsH := oh, filter := flt, tSb := sb } s := rfl

section
variable {c : SamplingConfig} {s : State} {w w' : CfgWrite} {a : BusAnswer} {rest : List BusItem} {k : Bool}

/-! ### The entry (R180, R183) -/

theorem configureStep_entry (hs : s.seq = .idle) (hlife : s.life = .ready) :
    configureStep c s = .next { applyConfigEntry s with seq := .configure (.write .ctrlHum) } := by
  simp only [configureStep, hs, hlife, ne_eq, not_true_eq_false, if_false]

/-! ### A write (R181, R183, R186) -/

/-- What an acknowledged write of `ApplyConfig` with the operands `c` has changed: the device and the record.
`defaultWritten` is its case of the default configuration. -/
def operandsWritten (c : SamplingConfig) (w : CfgWrite) (k : Bool) (rest : List BusItem) (s : State) : State :=
  logEvent (.write w.addr (w.image c) true)
    { s with busQueue := rest, dev := s.dev.write k w.addr (w.image c) }

theorem configureStep_write (hs : s.seq = .configure (.write w)) (hq : s.busQueue = .answer a :: rest)
    (hk : a.takes = some k) (hnext : w.next = some w') :
    configureStep c s = .next { operandsWritten c w k rest s with seq := .configure (.write w') } := by
  simp only [configureStep, hs, applyConfigWrite, memWrite_ack hq hk, hnext, operandsWritten]

theorem configureStep_lastWrite (hs : s.seq = .configure (.write .ctrlMeas)) (hq : s.busQueue = .answer a :: rest)
    (hk : a.takes = some k) :
    configureStep c s = .next { operandsWritten c .ctrlMeas k rest s with
      cfg := c, cfgValid := true, seq := .configure .respond } := by
  simp only [configureStep, hs, applyConfigWrite, memWrite_ack hq hk, CfgWrite.next, operandsWritten]

theorem configureStep_nack (hs : s.seq = .configure (.write w)) (hq : s.busQueue = .answer .nack :: rest) :
    configureStep c s = .next (raise .transportError (zext 32 w.addr)
      (logEvent (.write w.addr (w.image c) false) { s with busQueue := rest })) := by
  simp only [configureStep, hs, applyConfigWrite, memWrite_nack hq]

/-! ### The response (R180) -/

theorem configureStep_respond (hs : s.seq = .configure .respond) :
    configureStep c s = .next (respondOk 0#32 0#3 s) := by simp only [configureStep, hs]

end

/-! ### The obligations -/

/-- Settles O32: the entry, the three writes, the response, each from the state the one before leaves. -/
theorem configureWritesInOrder : Obligations.ConfigureWritesInOrder := by
  unfold Obligations.ConfigureWritesInOrder
  intro s md ot opr oh flt sb a1 a2 a3 k1 k2 k3 rest hs hlife hq hk1 hk2 hk3
  simp only [exec_configure]
  refine ⟨_, _, _, _, configureStep_entry hs hlife, rfl, rfl, rfl, configureStep_write rfl hq hk1 rfl,
    configureStep_write rfl rfl hk2 rfl, rfl, rfl, configureStep_lastWrite rfl rfl hk3, rfl, ?_⟩
  rw [configureStep_respond rfl]
  simp only [respondOk, finish, operandsWritten, applyConfigEntry, logEvent, List.append_assoc, List.cons_append,
    List.nil_append]
  rfl

/-- Settles O33: at whichever write, the NACK raises TransportError and nothing but the record has changed. -/
theorem configureNackStops : Obligations.ConfigureNackStops := by
  unfold Obligations.ConfigureNackStops
  intro s md ot opr oh flt sb w rest hs hq
  rw [exec_configure, configureStep_nack hs hq]
  simp only [raise, finish, logEvent, List.append_assoc, List.cons_append, List.nil_append]
  cases w <;> rfl

/-! ### A whole CONFIGURE (R184) -/

/-- The events of a CONFIGURE with the operands `c` that is acknowledged throughout. -/
def configureEvents (c : SamplingConfig) : List Event :=
  [.write 0xF2#8 (imgCtrlHum c) true, .write 0xF5#8 (imgConfig c) true, .write 0xF4#8 (imgCtrlMeas c) true,
    .response { status := 0#4, value := 0#32, flags := 0#3 }]

/-- What such a CONFIGURE adds to the record of `s` and leaves in the registers of `t`: all of it given by `c`. -/
def Configured (c : SamplingConfig) (s t : State) : Prop :=
  t.events = s.events ++ configureEvents c ∧ t.cfg = c ∧ t.cfgValid = true ∧ t.tfineValid = false ∧
    t.resp = { status := 0#4, value := 0#32, flags := 0#3 } ∧ t.life = .ready ∧ t.seq = .idle ∧ t.busy = false

/-- The five statements of CONFIGURE from a READY state, by the obligation on their order. -/
theorem configure_run (md : BitVec 2) (ot opr oh flt sb : BitVec 3) {s : State} {a1 a2 a3 : BusAnswer}
    {rest : List BusItem} (hs : s.seq = .idle) (hlife : s.life = .ready)
    (hq : s.busQueue = .answer a1 :: .answer a2 :: .answer a3 :: rest)
    (ha1 : a1 ≠ .nack) (ha2 : a2 ≠ .nack) (ha3 : a3 ≠ .nack) :
    ∃ t, execTimes (.configure md ot opr oh flt sb) 5 s = .next t ∧
      Configured { mode := md, osrsT := ot, osrsP := opr, osrsH := oh, filter := flt, tSb := sb } s t := by
  obtain ⟨k1, hk1⟩ := BusAnswer.takes_of_ne_nack ha1
  obtain ⟨k2, hk2⟩ := BusAnswer.takes_of_ne_nack ha2
  obtain ⟨k3, hk3⟩ := BusAnswer.takes_of_ne_nack ha3
  obtain ⟨t1, t2, t3, t4, hentry, -, -, -, hhum, hconfig, -, -, hmeas, -, hrespond⟩ :=
    configureWritesInOrder s md ot opr oh flt sb a1 a2 a3 k1 k2 k3 rest hs hlife hq hk1 hk2 hk3
  exact ⟨_, execTimes_succ hentry <| execTimes_succ hhum <| execTimes_succ hconfig <| execTimes_succ hmeas <|
    execTimes_one hrespond, rfl, rfl, rfl, rfl, rfl, hlife, rfl, rfl⟩

/-- Settles O34: what a CONFIGURE emits and leaves is given by its operands alone. -/
theorem configureIdempotent : Obligations.ConfigureIdempotent := by
  unfold Obligations.ConfigureIdempotent
  intro s u md ot opr oh flt sb a1 a2 a3 b1 b2 b3 q r hs hu hsready huready hsq huq hack
  simp only [List.forall_mem_cons] at hack
  obtain ⟨ha1, ha2, ha3, hb1, hb2, hb3, -⟩ := hack
  obtain ⟨s', hsrun, hsev, hs'⟩ := configure_run md ot opr oh flt sb hs hsready hsq ha1 ha2 ha3
  obtain ⟨u', hurun, huev, hu'⟩ := configure_run md ot opr oh flt sb hu huready huq hb1 hb2 hb3
  refine ⟨s', u', _, hsrun, hurun, hsev, huev, rfl, ?_⟩
  simp only [hs', hu', and_self]

end Sys2Proof.Machine
end

section
/-! PROOF. The compensation functions (spec/42_compensation.md R201 to R206): each function of the machine denotes the
integer that the rule's lines give, because each of its operators does (the operator lemmas of R10). -/

namespace Sys2Proof.Machine

/-! ### What the conversions of R9 denote -/

theorem toInt_sext {m n : Nat} (hmn : m ≤ n) (v : BitVec m) : (sext n v).toInt = v.toInt :=
  BitVec.toInt_signExtend_of_le hmn

/-- The width must grow: the new top bit is the sign, and it is 0. -/
theorem toInt_zext {m n : Nat} (hmn : m < n) (v : BitVec m) : (zext n v).toInt = v.toNat := by
  have hhalf : 2 * v.toNat < 2 ^ n :=
    calc 2 * v.toNat < 2 * 2 ^ m := by have := v.isLt; omega
      _ = 2 ^ (m + 1) := (Nat.pow_succ').symm
      _ ≤ 2 ^ n := Nat.pow_le_pow_right (by decide) hmn
  have hpattern : (zext n v).toNat = v.toNat := BitVec.toNat_setWidth_of_le hmn.le
  rw [BitVec.toInt_eq_toNat_of_lt (hpattern ▸ hhalf), hpattern]

theorem toNat_asU32_eq_exact {n : Nat} (hn : 32 ≤ n) (s : BitVec n) :
    ((asU32 s).toNat : Int) = Exact.u32 s.toInt := by
  have hdvd : (2 : Int) ^ 32 ∣ ((2 ^ n : Nat) : Int) := by
    exact_mod_cast Nat.pow_dvd_pow 2 hn
  calc ((asU32 s).toNat : Int) = (s.toNat : Int) % 2 ^ 32 := by rw [asU32, BitVec.toNat_setWidth]; rfl
    _ = s.toInt % 2 ^ 32 := by
      rw [BitVec.toInt_eq_toNat_bmod, ← Int.emod_emod_of_dvd (Int.bmod _ _) hdvd, Int.bmod_emod,
        Int.emod_emod_of_dvd _ hdvd]

/-- R10's operators but division, in one piece for the formulas below. -/
theorem toInt_operator_eq_exact {n : Nat} (hn : 0 < n) :
    (∀ a b : BitVec n, (a + b).toInt = Exact.add n a.toInt b.toInt) ∧
    (∀ a b : BitVec n, (a - b).toInt = Exact.sub n a.toInt b.toInt) ∧
    (∀ a b : BitVec n, (a * b).toInt = Exact.mul n a.toInt b.toInt) ∧
    (∀ (a : BitVec n) (k : Nat), (shl a k).toInt = Exact.shl n a.toInt k) ∧
    (∀ (a : BitVec n) (k : Nat), (asr a k).toInt = Exact.asr a.toInt k) :=
  ⟨toInt_add_eq_exact hn, toInt_sub_eq_exact hn, toInt_mul_eq_exact hn, toInt_shl_eq_exact hn, toInt_asr_eq_exact⟩

/-! ### Temperature (R201) -/

theorem toInt_fineTemperature (c : Cal) (adcT : S32) :
    (fineTemperature c adcT).toInt = Exact.fine c adcT.toInt := by
  simp only [fineTemperature, Exact.fine, toInt_operator_eq_exact (n := 32) (by decide), toInt_sext, toInt_zext,
    Nat.reduceLeDiff, Nat.reduceLT]

theorem toInt_centiCelsius (tf : S32) : (centiCelsius tf).toInt = Exact.centi tf.toInt := by
  simp only [centiCelsius, Exact.centi, toInt_operator_eq_exact (n := 32) (by decide), BitVec.reduceToInt]

/-- Settles O12: the stages of COMP_T, one after the other. -/
theorem temperatureFormula : Obligations.TemperatureFormula := by
  unfold Obligations.TemperatureFormula
  refine ⟨fun c adcT => ⟨toInt_fineTemperature c adcT, ?_⟩, by decide⟩
  rw [← toInt_fineTemperature]
  exact toInt_centiCelsius _

/-! ### Pressure (R202, R205) -/

theorem toInt_pressV (tf : S32) : (pressV tf).toInt = Exact.sub 64 tf.toInt 128000 := by
  simp only [pressV, toInt_operator_eq_exact (n := 64) (by decide), toInt_sext, Nat.reduceLeDiff, BitVec.reduceToInt]

theorem toInt_pressDivisor (c : Cal) (tf : S32) : (pressDivisor c tf).toInt = Exact.divisor c tf.toInt := by
  simp only [pressDivisor, Exact.divisor, toInt_operator_eq_exact (n := 64) (by decide), toInt_pressV, toInt_sext,
    toInt_zext, Nat.reduceLeDiff, Nat.reduceLT, BitVec.reduceToInt]

theorem toInt_pressQuotient (c : Cal) (adcP tf : S32) :
    (pressQuotient c adcP tf).toInt = Exact.quotient c adcP.toInt tf.toInt := by
  simp only [pressQuotient, Exact.quotient, pressOffset, toInt_operator_eq_exact (n := 64) (by decide),
    toInt_divTrunc_eq_exact (n := 64) (by decide), toInt_pressV, toInt_pressDivisor, toInt_sext, Nat.reduceLeDiff,
    BitVec.reduceToInt]

theorem pressDivisor_eq_zero_iff (c : Cal) (tf : S32) : pressDivisor c tf = 0#64 ↔ Exact.divisor c tf.toInt = 0 := by
  rw [← toInt_pressDivisor, ← BitVec.toInt_inj, BitVec.toInt_zero]

/-- Settles O13: the machine's divisor is the pattern 0 exactly when R202's is the number 0. -/
theorem pressureFormula : Obligations.PressureFormula := by
  unfold Obligations.PressureFormula
  refine ⟨fun c adcP tf => ⟨fun hzero => ?_, fun hne => ?_⟩, by decide⟩
  · exact if_pos ((pressDivisor_eq_zero_iff c tf).mpr hzero)
  · have hquot : compP c adcP tf = (asU32 (pressQuotient c adcP tf), false) :=
      if_neg (mt (pressDivisor_eq_zero_iff c tf).mp hne)
    rw [hquot]
    exact ⟨(toNat_asU32_eq_exact (by decide) _).trans (congrArg Exact.u32 (toInt_pressQuotient c adcP tf)), rfl⟩

/-! ### Humidity (R203, R206) -/

theorem toInt_humidityPreClamp (c : Cal) (adcH tf : S32) :
    (humidityPreClamp c adcH tf).toInt = Exact.preClamp c adcH.toInt tf.toInt := by
  simp only [humidityPreClamp, Exact.preClamp, toInt_operator_eq_exact (n := 32) (by decide), toInt_sext, toInt_zext,
    Nat.reduceLeDiff, Nat.reduceLT, BitVec.reduceToInt]

/-- R206's comparisons on the numbers. -/
theorem clampHumidity_eq (v : S32) :
    clampHumidity v = if v.toInt < 0 then 0#32 else if v.toInt > 419430400 then 419430400#32 else v := by
  simp only [clampHumidity, BitVec.slt_iff_toInt_lt, BitVec.reduceToInt, gt_iff_lt]

theorem toInt_clampHumidity (v : S32) :
    (clampHumidity v).toInt = if v.toInt < 0 then 0 else if v.toInt > 419430400 then 419430400 else v.toInt := by
  simp only [clampHumidity_eq, apply_ite BitVec.toInt, BitVec.reduceToInt]

theorem clampHumidity_range (v : S32) : 0 ≤ (clampHumidity v).toInt ∧ (clampHumidity v).toInt ≤ 419430400 := by
  rw [toInt_clampHumidity]
  split_ifs <;> omega

/-- The final shift of a clamped value lies in 0..102400, so taking bits 31..0 of it loses nothing. -/
theorem toNat_compH (c : Cal) (adcH tf : S32) :
    ((compH c adcH tf).toNat : Int) = (clampHumidity (humidityPreClamp c adcH tf)).toInt / 2 ^ 12 := by
  obtain ⟨hlow, hhigh⟩ := clampHumidity_range (humidityPreClamp c adcH tf)
  rw [compH, toNat_asU32_eq_exact (by decide), toInt_asr_eq_exact, Exact.u32, Exact.asr,
    Int.fdiv_eq_ediv_of_nonneg _ (by decide)]
  omega

theorem toNat_compH_eq_exact (c : Cal) (adcH tf : S32) :
    ((compH c adcH tf).toNat : Int) = Exact.humidity c adcH.toInt tf.toInt := by
  rw [toNat_compH, toInt_clampHumidity, toInt_humidityPreClamp, Exact.humidity, Exact.asr,
    Int.fdiv_eq_ediv_of_nonneg _ (by decide)]

theorem toNat_compH_le (c : Cal) (adcH tf : S32) : (compH c adcH tf).toNat ≤ 102400 := by
  have hclamp := (clampHumidity_range (humidityPreClamp c adcH tf)).2
  have hshift := toNat_compH c adcH tf
  omega

theorem compH_of_preClamp_neg {c : Cal} {adcH tf : S32} (h : Exact.preClamp c adcH.toInt tf.toInt < 0) :
    compH c adcH tf = 0#32 := by
  rw [compH, clampHumidity_eq, toInt_humidityPreClamp, if_pos h]
  decide

theorem compH_of_preClamp_gt {c : Cal} {adcH tf : S32} (h : 419430400 < Exact.preClamp c adcH.toInt tf.toInt) :
    compH c adcH tf = 102400#32 := by
  rw [compH, clampHumidity_eq, toInt_humidityPreClamp, if_neg (by omega), if_pos h]
  decide

/-- Settles O14: the value before the clamp is R203's, and the clamp compares it as the number it denotes. -/
theorem humidityFormula : Obligations.HumidityFormula := by
  unfold Obligations.HumidityFormula
  exact ⟨fun c adcH tf => ⟨toNat_compH_eq_exact c adcH tf, toNat_compH_le c adcH tf, compH_of_preClamp_neg,
    compH_of_preClamp_gt⟩, by decide, by decide⟩

end Sys2Proof.Machine
end

section
/-! PROOF. The statements of READ_T, READ_P and READ_H (spec/43_readout.md R241 to R249): the next state of each, given
what the bus port answers, and whole readouts. -/

namespace Sys2Proof.Machine

section
variable {s : State} {fresh : Bool} {temp own : Seq} {a : BusAnswer} {rest : List BusItem} {b0 b1 b2 : Byte}

/-! ### The entry (R241 to R243, R245) -/

theorem readoutEntry_fresh (hlife : s.life = .ready) :
    readoutEntry true temp own s = .next { s with seq := temp } := by
  simp only [readoutEntry, hlife, ne_eq, not_true_eq_false, if_false, if_true]

theorem readoutEntry_valid (hlife : s.life = .ready) (hfine : s.tfineValid = true) :
    readoutEntry false temp own s = .next { s with seq := own } := by
  simp only [readoutEntry, hlife, hfine, ne_eq, not_true_eq_false, Bool.false_eq_true, Bool.true_eq_false, if_false]

theorem readoutEntry_stale (hlife : s.life = .ready) (hfine : s.tfineValid = false) :
    readoutEntry false temp own s = .next (raise .staleFineTemperature 0#32 s) := by
  simp only [readoutEntry, hlife, hfine, ne_eq, not_true_eq_false, Bool.false_eq_true, if_false, if_true]

/-! ### The statement at each position -/

theorem readT_entry (hs : s.seq = .idle) (hlife : s.life = .ready) :
    exec .readT s = .next { s with seq := .readT .temp } := by
  simp only [exec, execReadT, hs, hlife, ne_eq, not_true_eq_false, if_false]

theorem readT_temp (hs : s.seq = .readT .temp) :
    exec .readT s =
      refreshT (fun t sent => holdResult (asU32 t) (flagWord sent sent false) (.readT .respond)) s := by
  simp only [exec, execReadT, hs]

theorem readT_respond (hs : s.seq = .readT .respond) :
    exec .readT s = .next (respondOk s.tmp.value s.tmp.flags s) := by simp only [exec, execReadT, hs]

theorem readP_entry (hs : s.seq = .idle) :
    exec (.readP fresh) s = readoutEntry fresh (.readP .temp) (.readP .press) s := by
  simp only [exec, execReadP, hs]

theorem readP_temp (hs : s.seq = .readP .temp) :
    exec (.readP fresh) s = refreshT (fun _ _ s' => { s' with seq := .readP .press }) s := by
  simp only [exec, execReadP, hs]

theorem readP_press (hs : s.seq = .readP .press) : exec (.readP fresh) s = convertP s := by
  simp only [exec, execReadP, hs]

theorem readP_respond (hs : s.seq = .readP .respond) :
    exec (.readP fresh) s = .next (respondOk s.tmp.value s.tmp.flags s) := by simp only [exec, execReadP, hs]

theorem readH_entry (hs : s.seq = .idle) :
    exec (.readH fresh) s = readoutEntry fresh (.readH .temp) (.readH .hum) s := by
  simp only [exec, execReadH, hs]

theorem readH_temp (hs : s.seq = .readH .temp) :
    exec (.readH fresh) s = refreshT (fun _ _ s' => { s' with seq := .readH .hum }) s := by
  simp only [exec, execReadH, hs]

theorem readH_hum (hs : s.seq = .readH .hum) : exec (.readH fresh) s = convertH s := by
  simp only [exec, execReadH, hs]

theorem readH_respond (hs : s.seq = .readH .respond) :
    exec (.readH fresh) s = .next (respondOk s.tmp.value s.tmp.flags s) := by simp only [exec, execReadH, hs]

/-! ### A refused read (R248, R273) -/

theorem refreshT_nack {caller : S32 → Bool → State → State} (hq : s.busQueue = .answer .nack :: rest) :
    refreshT caller s = .next (raise .transportError (zext 32 Config.regTemp)
      (logEvent (.read Config.regTemp 3 none) { s with busQueue := rest, tfineValid := false })) := by
  simp only [refreshT, memRead_nack hq]
  rfl

theorem convertP_nack (hq : s.busQueue = .answer .nack :: rest) :
    convertP s = .next (raise .transportError (zext 32 Config.regPress)
      (logEvent (.read Config.regPress 3 none) { s with busQueue := rest })) := by
  simp only [convertP, memRead_nack hq]

theorem convertH_nack (hq : s.busQueue = .answer .nack :: rest) :
    convertH s = .next (raise .transportError (zext 32 Config.regHum)
      (logEvent (.read Config.regHum 2 none) { s with busQueue := rest })) := by
  simp only [convertH, memRead_nack hq]

/-- The whole state after an error response to the transaction `e`: the record holds `e`, then the response. -/
theorem raise_logEvent (error : ErrorKind) (info : Word) (e : Event) :
    raise error info (logEvent e s) = { s with
      resp := { status := error.code, value := info, flags := 0#3 }, respValid := true, seq := .idle, busy := false,
      events := s.events ++ [e, .response { status := error.code, value := info, flags := 0#3 }] } := by
  simp only [raise, finish, logEvent, List.append_assoc, List.cons_append, List.nil_append]

/-! ### An acknowledged read (R242 to R244) -/

/-- The fine temperature that `RefreshT` makes of a raw code, with its two bits (R244). -/
def fineMade (code : BitVec 24) (s : State) : State :=
  { s with tfine := (compT s.cal (adc20 code)).2, tfineValid := true, tfineSent := isSentinel24 code }

theorem refreshT_ack {caller : S32 → Bool → State → State} (hq : s.busQueue = .answer a :: rest)
    (hb : a.bytes s.dev Config.regTemp = some (b0, b1, b2)) (hcal : s.calValid = true) :
    refreshT caller s = .next (caller (compT s.cal (adc20 (code24 b0 b1 b2))).1 (isSentinel24 (code24 b0 b1 b2))
      (logEvent (.read Config.regTemp 3 (some [b0, b1, b2]))
        { fineMade (code24 b0 b1 b2) s with busQueue := rest })) := by
  simp only [refreshT, memRead_ack hq hb, readCal_afterRead, readCal_valid hcal]
  rfl

/-- The next state of the temperature read of READ_P and READ_H, which then stand at their own channel's read `q`. -/
def refreshed (b0 b1 b2 : Byte) (rest : List BusItem) (q : Seq) (s : State) : State :=
  { logEvent (.read Config.regTemp 3 (some [b0, b1, b2])) { fineMade (code24 b0 b1 b2) s with busQueue := rest } with
    seq := q }

theorem readP_temp_ack (hs : s.seq = .readP .temp) (hq : s.busQueue = .answer a :: rest)
    (hb : a.bytes s.dev Config.regTemp = some (b0, b1, b2)) (hcal : s.calValid = true) :
    exec (.readP fresh) s = .next (refreshed b0 b1 b2 rest (.readP .press) s) :=
  (readP_temp hs).trans (refreshT_ack hq hb hcal)

theorem readH_temp_ack (hs : s.seq = .readH .temp) (hq : s.busQueue = .answer a :: rest)
    (hb : a.bytes s.dev Config.regTemp = some (b0, b1, b2)) (hcal : s.calValid = true) :
    exec (.readH fresh) s = .next (refreshed b0 b1 b2 rest (.readH .hum) s) :=
  (readH_temp hs).trans (refreshT_ack hq hb hcal)

/-- The flags of a pressure: CH_SENT, the fine temperature's T_SENT, and DIV0 (R117, R246). -/
def pressFlags (code : BitVec 24) (s : State) : BitVec 3 :=
  flagWord (isSentinel24 code) s.tfineSent (compP s.cal (adc20 code) s.tfine).2

theorem convertP_ack (hq : s.busQueue = .answer a :: rest)
    (hb : a.bytes s.dev Config.regPress = some (b0, b1, b2)) (hcal : s.calValid = true)
    (hfine : s.tfineValid = true) :
    convertP s = .next (holdResult (compP s.cal (adc20 (code24 b0 b1 b2)) s.tfine).1 (pressFlags (code24 b0 b1 b2) s)
      (.readP .respond) (logEvent (.read Config.regPress 3 (some [b0, b1, b2])) { s with busQueue := rest })) := by
  simp only [convertP, memRead_ack hq hb, readCal_afterRead, readTFine_afterRead, readCal_valid hcal,
    readTFine_valid hfine]
  rfl

/-- The flags of a humidity: CH_SENT and the fine temperature's T_SENT (R117, R246). -/
def humFlags (code : BitVec 16) (s : State) : BitVec 3 := flagWord (isSentinel16 code) s.tfineSent false

theorem convertH_ack (hq : s.busQueue = .answer a :: rest)
    (hb : a.bytes s.dev Config.regHum = some (b0, b1, b2)) (hcal : s.calValid = true)
    (hfine : s.tfineValid = true) :
    convertH s = .next (holdResult (compH s.cal (adc16 (code16 b0 b1)) s.tfine) (humFlags (code16 b0 b1) s)
      (.readH .respond) (logEvent (.read Config.regHum 2 (some [b0, b1])) { s with busQueue := rest })) := by
  simp only [convertH, memRead_ack hq hb, readCal_afterRead, readTFine_afterRead, readCal_valid hcal,
    readTFine_valid hfine]
  rfl

/-! ### The response -/

/-- What a readout leaves after the OK response to its last read `e`: the result in the locals and in the response. -/
def readoutDone (value : Word) (flags : BitVec 3) (e : Event) (rest : List BusItem) (s : State) : State :=
  { s with
    busQueue := rest, tmp := { s.tmp with value := value, flags := flags },
    resp := { status := 0#4, value := value, flags := flags }, respValid := true, seq := .idle, busy := false,
    events := s.events ++ [e, .response { status := 0#4, value := value, flags := flags }] }

theorem respondOk_holdResult (value : Word) (flags : BitVec 3) (q : Seq) (e : Event) :
    respondOk value flags (holdResult value flags q (logEvent e { s with busQueue := rest })) =
      readoutDone value flags e rest s := by
  simp only [respondOk, finish, holdResult, logEvent, readoutDone, List.append_assoc, List.cons_append,
    List.nil_append]

/-- With the temperature read before it, the record has both reads (R242, R243). -/
theorem readoutDone_refreshed (value : Word) (flags : BitVec 3) (e : Event) (rest' : List BusItem) (q : Seq) :
    readoutDone value flags e rest' (refreshed b0 b1 b2 rest q s) =
      { readoutDone value flags e rest' (fineMade (code24 b0 b1 b2) s) with
        events := s.events ++ [.read Config.regTemp 3 (some [b0, b1, b2]), e,
          .response { status := 0#4, value := value, flags := flags }] } := by
  simp only [readoutDone, refreshed, logEvent, List.append_assoc, List.cons_append, List.nil_append]
  rfl

/-! ### From the last read to the response -/

theorem readT_fromTemp (hs : s.seq = .readT .temp) (hq : s.busQueue = .answer a :: rest)
    (hb : a.bytes s.dev Config.regTemp = some (b0, b1, b2)) (hcal : s.calValid = true) :
    ∃ t, exec .readT s = .next t ∧
      exec .readT t = .next (readoutDone (compT s.cal (adc20 (code24 b0 b1 b2))).1
        (flagWord (isSentinel24 (code24 b0 b1 b2)) (isSentinel24 (code24 b0 b1 b2)) false)
        (.read Config.regTemp 3 (some [b0, b1, b2])) rest (fineMade (code24 b0 b1 b2) s)) :=
  ⟨_, (readT_temp hs).trans (refreshT_ack hq hb hcal), (readT_respond rfl).trans
    (congrArg Host.Outcome.next (respondOk_holdResult _ _ _ _))⟩

theorem readP_fromPress (hs : s.seq = .readP .press) (hq : s.busQueue = .answer a :: rest)
    (hb : a.bytes s.dev Config.regPress = some (b0, b1, b2)) (hcal : s.calValid = true)
    (hfine : s.tfineValid = true) :
    ∃ t, exec (.readP fresh) s = .next t ∧
      exec (.readP fresh) t = .next (readoutDone (compP s.cal (adc20 (code24 b0 b1 b2)) s.tfine).1
        (pressFlags (code24 b0 b1 b2) s) (.read Config.regPress 3 (some [b0, b1, b2])) rest s) :=
  ⟨_, (readP_press hs).trans (convertP_ack hq hb hcal hfine), (readP_respond rfl).trans
    (congrArg Host.Outcome.next (respondOk_holdResult _ _ _ _))⟩

theorem readH_fromHum (hs : s.seq = .readH .hum) (hq : s.busQueue = .answer a :: rest)
    (hb : a.bytes s.dev Config.regHum = some (b0, b1, b2)) (hcal : s.calValid = true)
    (hfine : s.tfineValid = true) :
    ∃ t, exec (.readH fresh) s = .next t ∧
      exec (.readH fresh) t = .next (readoutDone (compH s.cal (adc16 (code16 b0 b1)) s.tfine)
        (humFlags (code16 b0 b1) s) (.read Config.regHum 2 (some [b0, b1])) rest s) :=
  ⟨_, (readH_hum hs).trans (convertH_ack hq hb hcal hfine), (readH_respond rfl).trans
    (congrArg Host.Outcome.next (respondOk_holdResult _ _ _ _))⟩

end

/-! ### The obligations on the results -/

/-- READ_T's two sentinel flags are one (R117, R246). -/
theorem flagWord_temperature (sent : Bool) : flagWord sent sent false = if sent then 0b011#3 else 0b000#3 := by
  cases sent <;> rfl

/-- Settles O36: the entry, the read, the response, each from the state the one before leaves. -/
theorem readTResult : Obligations.ReadTResult := by
  unfold Obligations.ReadTResult
  intro s a rest b0 b1 b2 hs hlife hcal hq hb
  obtain ⟨t, hread, hrespond⟩ := readT_fromTemp (s := { s with seq := .readT .temp }) rfl hq hb hcal
  rw [flagWord_temperature] at hrespond
  exact ⟨_, t, readT_entry hs hlife, rfl, hread, hrespond⟩

/-- Settles O37: with F = 1 the temperature conversion comes first, and from the read of the pressure on the two are
one. -/
theorem readPResult : Obligations.ReadPResult := by
  unfold Obligations.ReadPResult
  constructor
  · intro s a rest b0 b1 b2 hs hlife hcal hfine hq hb
    obtain ⟨t, hread, hrespond⟩ := readP_fromPress (s := { s with seq := .readP .press }) rfl hq hb hcal hfine
    exact ⟨_, t, (readP_entry hs).trans (readoutEntry_valid hlife hfine), hread, hrespond⟩
  · intro s a a' rest b0 b1 b2 c0 c1 c2 hs hlife hcal hq hbT hb
    obtain ⟨t, hread, hrespond⟩ := readP_fromPress (fresh := true)
      (s := refreshed c0 c1 c2 (.answer a' :: rest) (.readP .press) s) rfl rfl hb hcal rfl
    rw [readoutDone_refreshed] at hrespond
    exact ⟨_, _, t, (readP_entry hs).trans (readoutEntry_fresh hlife), readP_temp_ack rfl hq hbT hcal, hread,
      hrespond⟩

/-- Settles O38, as the pressure's. -/
theorem readHResult : Obligations.ReadHResult := by
  unfold Obligations.ReadHResult
  constructor
  · intro s a rest b0 b1 x hs hlife hcal hfine hq hb
    obtain ⟨t, hread, hrespond⟩ := readH_fromHum (s := { s with seq := .readH .hum }) rfl hq hb hcal hfine
    exact ⟨_, t, (readH_entry hs).trans (readoutEntry_valid hlife hfine), hread, hrespond⟩
  · intro s a a' rest b0 b1 x c0 c1 c2 hs hlife hcal hq hbT hb
    obtain ⟨t, hread, hrespond⟩ := readH_fromHum (fresh := true)
      (s := refreshed c0 c1 c2 (.answer a' :: rest) (.readH .hum) s) rfl rfl hb hcal rfl
    rw [readoutDone_refreshed] at hrespond
    exact ⟨_, _, t, (readH_entry hs).trans (readoutEntry_fresh hlife), readH_temp_ack rfl hq hbT hcal, hread,
      hrespond⟩

/-! ### The entry and the refused reads -/

/-- Settles O19, by the fresh bit and the validity of TFINE. -/
theorem freshnessRule : Obligations.FreshnessRule := by
  unfold Obligations.FreshnessRule
  intro s hs hlife
  simp only [readP_entry hs, readH_entry hs]
  exact ⟨fun hfine => ⟨readoutEntry_stale hlife hfine, readoutEntry_stale hlife hfine⟩,
    fun hfine => ⟨readoutEntry_valid hlife hfine, readoutEntry_valid hlife hfine⟩,
    readoutEntry_fresh hlife, readoutEntry_fresh hlife⟩

/-- Settles O39: the temperature read of the three readouts is one, and the channels' reads keep TFINE. -/
theorem failedReadsAndFineTemperature : Obligations.FailedReadsAndFineTemperature := by
  unfold Obligations.FailedReadsAndFineTemperature
  intro s rest hq
  refine ⟨fun hs => ?_, fun hs f => ?_, fun hs f => ?_, fun hs f => ?_, fun hs f => ?_⟩
  · rw [readT_temp hs, refreshT_nack hq, raise_logEvent]; rfl
  · rw [readP_temp hs, refreshT_nack hq, raise_logEvent]; rfl
  · rw [readH_temp hs, refreshT_nack hq, raise_logEvent]; rfl
  · rw [readP_press hs, convertP_nack hq, raise_logEvent]; rfl
  · rw [readH_hum hs, convertH_nack hq, raise_logEvent]; rfl

end Sys2Proof.Machine
end

section
/-! PROOF. Which steps write TFINE (spec/43_readout.md R249). -/

namespace Sys2Proof.Machine

/-- TFINE is kept, or made by a temperature conversion and valid (R249). -/
def FineKeptOrMade (s t : State) : Prop := t.tfine = s.tfine ∨ (s.seq.convertsT = true ∧ t.tfineValid = true)

theorem FineKeptOrMade.made {s t : State} {q : Seq} (hs : s.seq = q) (hq : q.convertsT = true)
    (hfine : t.tfineValid = true) : FineKeptOrMade s t := .inr ⟨hs ▸ hq, hfine⟩

theorem exec_fineKeptOrMade {i : Instr} {s t : State} (he : exec i s = .next t) : FineKeptOrMade s t := by
  cases i with
  | init => exact .inl (init_fine he).1
  | configure =>
    obtain ⟨-, htfine, -⟩ := configure_keeps he
    exact .inl htfine
  | readT =>
    apply readT_next_elim s t he
    case waits => rintro rfl; exact .inl rfl
    case converted => intro rest b0 b1 b2 v f tf se hs _; exact .made hs rfl rfl
    all_goals (intros; exact .inl rfl)
  | readP f =>
    apply readP_next_elim f s t he
    case waits => rintro rfl; exact .inl rfl
    case convertedT => intro rest b0 b1 b2 tf se hs _; exact .made hs rfl rfl
    all_goals (intros; exact .inl rfl)
  | readH f =>
    apply readH_next_elim f s t he
    case waits => rintro rfl; exact .inl rfl
    case convertedT => intro rest b0 b1 b2 tf se hs _; exact .made hs rfl rfl
    all_goals (intros; exact .inl rfl)

/-- Settles O40: only a statement of an executing command can make TFINE, as the first statement is no conversion. -/
theorem sameFineTemperature : Obligations.SameFineTemperature := by
  unfold Obligations.SameFineTemperature
  intro s t hreset he hne
  obtain ⟨hreq, -⟩ | ⟨m, rest, -, -, hstep⟩ | ⟨-, -, -, hstep⟩ | ⟨w, rest, -, -, -, hstep⟩ | ⟨-, hbusy, hstep⟩ :=
    step_cases s
  · rw [hreset] at hreq; cases hreq
  · rw [hstep] at he; cases he; exact absurd rfl hne
  · rw [hstep] at he; cases he; exact absurd rfl hne
  · rw [hstep, acceptStep] at he
    split at he
    · cases he; exact absurd rfl hne
    · obtain hkept | ⟨hconverts, -⟩ := exec_fineKeptOrMade he
      · exact absurd hkept hne
      · cases hconverts
  · rw [hstep, continueStep] at he
    split at he
    · cases he
    · exact ⟨hbusy, (exec_fineKeptOrMade he).resolve_left hne⟩

end Sys2Proof.Machine
end

section
/-! PROOF. A port that does not answer leaves the block waiting (spec/60_exceptions.md R291): what each statement that
uses a port does when the port is silent. -/

namespace Sys2Proof.Machine

section
variable {s : State}

/-! ### The shared operations at a silent bus port -/

theorem applyConfigWrite_silent {c : SamplingConfig} {w : CfgWrite} (h : BusItem.silent s.busQueue = true) :
    applyConfigWrite c w s = .waiting := by simp only [applyConfigWrite, memWrite_silent h]

theorem refreshT_silent {caller : S32 → Bool → State → State} (h : BusItem.silent s.busQueue = true) :
    refreshT caller s = .next s := by simp only [refreshT, memRead_silent h]

theorem convertP_silent (h : BusItem.silent s.busQueue = true) : convertP s = .next s := by
  simp only [convertP, memRead_silent h]

theorem convertH_silent (h : BusItem.silent s.busQueue = true) : convertH s = .next s := by
  simp only [convertH, memRead_silent h]

/-! ### The commands at a silent bus port -/

theorem init_silent {p : InitPos} (hs : s.seq = .init p) (hbus : s.seq.awaitsBus = true)
    (h : BusItem.silent s.busQueue = true) : exec .init s = .next s := by
  rw [hs] at hbus
  rw [exec_init_at hs]
  cases p with
  | checkId => simp only [initAt, initCheckId, memRead_silent h]
  | reset => simp only [initAt, initReset, memWrite_silent h]
  | poll => simp only [initAt, initPoll, memRead_silent h]
  | loadCal r => simp only [initAt, initLoadCal, memRead_silent h]
  | applyDefault w => simp only [initAt, initApplyDefault, applyConfigWrite_silent h]
  | resetSettle | pollWait | finalSettle | respond => cases hbus

theorem configureStep_silent {c : SamplingConfig} {p : ConfigurePos} (hs : s.seq = .configure p)
    (hbus : s.seq.awaitsBus = true) (h : BusItem.silent s.busQueue = true) : configureStep c s = .next s := by
  rw [hs] at hbus
  cases p with
  | write w => simp only [configureStep, hs, applyConfigWrite_silent h]
  | respond => cases hbus

theorem readT_silent {p : ReadTPos} (hs : s.seq = .readT p) (hbus : s.seq.awaitsBus = true)
    (h : BusItem.silent s.busQueue = true) : exec .readT s = .next s := by
  rw [hs] at hbus
  cases p with
  | temp => rw [readT_temp hs, refreshT_silent h]
  | respond => cases hbus

theorem readP_silent {fresh : Bool} {p : ReadPPos} (hs : s.seq = .readP p) (hbus : s.seq.awaitsBus = true)
    (h : BusItem.silent s.busQueue = true) : exec (.readP fresh) s = .next s := by
  rw [hs] at hbus
  cases p with
  | temp => rw [readP_temp hs, refreshT_silent h]
  | press => rw [readP_press hs, convertP_silent h]
  | respond => cases hbus

theorem readH_silent {fresh : Bool} {p : ReadHPos} (hs : s.seq = .readH p) (hbus : s.seq.awaitsBus = true)
    (h : BusItem.silent s.busQueue = true) : exec (.readH fresh) s = .next s := by
  rw [hs] at hbus
  cases p with
  | temp => rw [readH_temp hs, refreshT_silent h]
  | hum => rw [readH_hum hs, convertH_silent h]
  | respond => cases hbus

/-- A position that fits a command is one of the command's own. -/
theorem exec_silent {i : Instr} (hfits : seqFits i s.seq = true) (hbus : s.seq.awaitsBus = true)
    (h : BusItem.silent s.busQueue = true) : exec i s = .next s := by
  cases i with
  | init =>
    cases hs : s.seq with
    | init p => exact init_silent hs hbus h
    | _ => rw [hs] at hfits; cases hfits
  | configure md ot opr oh flt sb =>
    cases hs : s.seq with
    | configure p => exact configureStep_silent hs hbus h
    | _ => rw [hs] at hfits; cases hfits
  | readT =>
    cases hs : s.seq with
    | readT p => exact readT_silent hs hbus h
    | _ => rw [hs] at hfits; cases hfits
  | readP fresh =>
    cases hs : s.seq with
    | readP p => exact readP_silent hs hbus h
    | _ => rw [hs] at hfits; cases hfits
  | readH fresh =>
    cases hs : s.seq with
    | readH p => exact readH_silent hs hbus h
    | _ => rw [hs] at hfits; cases hfits

/-! ### The delays -/

theorem init_undelayed {p : InitPos} (hs : s.seq = .init p) (hdelay : s.seq.awaitsDelay = true)
    (h : s.delayDone = 0) : exec .init s = .next s := by
  rw [hs] at hdelay
  cases p with
  | resetSettle => exact init_resetSettle_waiting hs h
  | pollWait => simp only [exec_init_at hs, initAt, initPollWait, delay_waiting h]
  | finalSettle => simp only [exec_init_at hs, initAt, initFinalSettle, delay_waiting h]
  | checkId | reset | poll | loadCal | applyDefault | respond => cases hdelay

/-- Only INIT has delays (R284). -/
theorem exec_undelayed {i : Instr} (hfits : seqFits i s.seq = true) (hdelay : s.seq.awaitsDelay = true)
    (h : s.delayDone = 0) : exec i s = .next s := by
  cases hs : s.seq with
  | init p =>
    rw [hs] at hfits
    cases i with
    | init => exact init_undelayed hs hdelay h
    | _ => cases hfits
  | _ => rw [hs] at hdelay; cases hdelay

end

/-- Settles O16: the bus port and the delay port, each at the positions that wait for it. -/
theorem silentPortsHoldTheBlock : Obligations.SilentPortsHoldTheBlock := by
  unfold Obligations.SilentPortsHoldTheBlock
  exact fun i s hfits => ⟨exec_silent hfits, exec_undelayed hfits⟩

end Sys2Proof.Machine
end

section
/-! PROOF. The acceptance of a word and the stages 1 to 3 of R278 (spec/60_exceptions.md R275 to R278, R289). -/

namespace Sys2Proof.Machine

/-! ### Which command a step runs (R21, R289) -/

theorem acceptStep_command {w : Word} {i : Instr} (hw : decode w = .command i) (rest : List Word) (s : State) :
    acceptStep w rest s = exec i (accept w rest s) := by simp only [acceptStep, hw]

/-- A busy block with no reset and no device move before it runs the command in CMD. -/
theorem step_exec_of_busy {s : State} {i : Instr} (hreset : s.resetReq = false)
    (hmove : ∀ m q, s.busQueue ≠ .move m :: q) (hbusy : s.busy = true) (hw : decode s.cmd = .command i) :
    step s = exec i s := by
  rw [step_block hreset hmove]
  simp only [blockStep, hbusy, if_true, continueStep, hw]

theorem dropMoves_ne_move (q : List BusItem) (m : DeviceMove) (rest : List BusItem) :
    dropMoves q ≠ .move m :: rest := by
  induction q with
  | nil => nofun
  | cons x q ih =>
    cases x with
    | move => exact ih
    | answer => nofun

theorem tableWord_toNat (w : Word) : tableWord 32 w.toNat = w := by
  simp only [tableWord, Nat.mod_eq_of_lt w.isLt, BitVec.ofNat_toNat, BitVec.setWidth_eq]

/-- A placed word is accepted next, and the bus port's schedule has then lost the moves at its head (log 21). -/
theorem step_withFetchWord {w : Word} {i : Instr} (hw : decode w = .command i) (s : State) :
    step (s.withFetchWord 32 w.toNat) = exec i { s with
      cmd := w, busy := true, seq := .idle, resetReq := false, busQueue := dropMoves s.busQueue,
      events := s.events ++ [.accept w] } := by
  rw [State.withFetchWord, tableWord_toNat,
    step_acceptStep (rest := s.hostQueue) rfl rfl (dropMoves_ne_move s.busQueue) rfl, acceptStep_command hw]
  rfl

/-- Settles O43: the acceptance, the continuation, and the placed word. -/
theorem stepRunsTheCommand : Obligations.StepRunsTheCommand := by
  unfold Obligations.StepRunsTheCommand
  refine ⟨fun s w rest i hreset hmove hbusy hhost hw => ?_, fun s i => step_exec_of_busy,
    fun s w i hw => ⟨_, step_withFetchWord hw s⟩⟩
  rw [step_acceptStep hbusy hreset hmove hhost, acceptStep_command hw]
  rfl

/-! ### The lifecycle stage (R275, R276) -/

theorem readoutEntry_notReady {s : State} {fresh : Bool} {temp own : Seq} (hlife : s.life ≠ .ready) :
    readoutEntry fresh temp own s = .next (raise .notInitialized 0#32 s) := by
  simp only [readoutEntry, if_pos hlife]

/-- Every command but INIT is refused before the block is READY. -/
theorem exec_notReady {i : Instr} {s : State} (hi : i ≠ .init) (hs : s.seq = .idle) (hlife : s.life ≠ .ready) :
    exec i s = .next (raise .notInitialized 0#32 s) := by
  cases i with
  | init => exact absurd rfl hi
  | configure md ot opr oh flt sb => simp only [exec_configure, configureStep, hs, if_pos hlife]
  | readT => simp only [exec, execReadT, hs, if_pos hlife]
  | readP fresh => rw [readP_entry hs, readoutEntry_notReady hlife]
  | readH fresh => rw [readH_entry hs, readoutEntry_notReady hlife]

theorem ready_of_not_refused {i : Instr} {s : State} (h : ¬(i ≠ .init ∧ s.life ≠ .ready)) (hi : i ≠ .init) :
    s.life = .ready := by_contra fun hne => h ⟨hi, hne⟩

/-- Settles O17: the answer of the lifecycle stage, written out. -/
theorem notInitializedRefusal : Obligations.NotInitializedRefusal := by
  unfold Obligations.NotInitializedRefusal
  exact fun i s => exec_notReady

/-! ### The freshness stage (R277) -/

/-- A readout with `F = 0` and no valid TFINE is refused by a READY block. -/
theorem exec_stale {i : Instr} {s : State} (hi : i = .readP false ∨ i = .readH false) (hs : s.seq = .idle)
    (hlife : s.life = .ready) (hfine : s.tfineValid = false) :
    exec i s = .next (raise .staleFineTemperature 0#32 s) := by
  obtain rfl | rfl := hi
  · rw [readP_entry hs, readoutEntry_stale hlife hfine]
  · rw [readH_entry hs, readoutEntry_stale hlife hfine]

/-! ### No stage fails -/

/-- The command takes a position of its own, with no event: its checks, lifecycle and freshness, are passed. -/
def Begins (i : Instr) (s : State) : Prop :=
  ∃ t, exec i s = .next t ∧ seqFits i t.seq = true ∧ t.events = s.events

theorem readout_begins {s : State} (hs : s.seq = .idle) (hlife : s.life = .ready) {fresh : Bool}
    (hfine : fresh = false → s.tfineValid = true) : Begins (.readP fresh) s ∧ Begins (.readH fresh) s := by
  simp only [Begins, readP_entry hs, readH_entry hs]
  cases fresh with
  | true => exact ⟨⟨_, readoutEntry_fresh hlife, rfl, rfl⟩, ⟨_, readoutEntry_fresh hlife, rfl, rfl⟩⟩
  | false =>
    have hvalid := hfine rfl
    exact ⟨⟨_, readoutEntry_valid hlife hvalid, rfl, rfl⟩, ⟨_, readoutEntry_valid hlife hvalid, rfl, rfl⟩⟩

theorem exec_begins {i : Instr} {s : State} (hs : s.seq = .idle) (hinit : ¬(i = .init ∧ s.life = .ready))
    (hother : ¬(i ≠ .init ∧ s.life ≠ .ready))
    (hfresh : ¬((i = .readP false ∨ i = .readH false) ∧ s.tfineValid = false)) : Begins i s := by
  have hready := ready_of_not_refused hother
  cases i with
  | init => exact ⟨_, init_entry hs fun hlife => hinit ⟨rfl, hlife⟩, rfl, rfl⟩
  | configure md ot opr oh flt sb => exact ⟨_, configureStep_entry hs (hready nofun), rfl, rfl⟩
  | readT => exact ⟨_, readT_entry hs (hready nofun), rfl, rfl⟩
  | readP fresh => exact (readout_begins hs (hready nofun) (by rintro rfl; simpa using hfresh)).1
  | readH fresh => exact (readout_begins hs (hready nofun) (by rintro rfl; simpa using hfresh)).2

/-! ### The stages in order -/

/-- What an error at the acceptance of `w` leaves: the answer after the acceptance, and the block idle. -/
theorem raise_accept (e : ErrorKind) (info w : Word) (rest : List Word) (s : State) :
    let t := raise e info (accept w rest s)
    t.resp = { status := e.code, value := info, flags := 0#3 } ∧ t.busy = false ∧ t.seq = .idle ∧
      t.events = s.events ++ [.accept w, .response { status := e.code, value := info, flags := 0#3 }] :=
  ⟨rfl, rfl, rfl, by simp⟩

/-- Settles O20: a failing stage answers by `raise` in the accepted state; past all three the command begins. -/
theorem stagesInOrder : Obligations.StagesInOrder := by
  unfold Obligations.StagesInOrder
  intro s w rest hbusy hreset hmove hhost
  rw [step_acceptStep hbusy hreset hmove hhost]
  cases hw : decode w with
  | illegal why => exact ⟨_, acceptStep_illegal hw rest s, rfl, rfl, raise_accept .illegalCommand w w rest s⟩
  | command i =>
    rw [acceptStep_command hw]
    have hs : (accept w rest s).seq = .idle := rfl
    dsimp only
    split_ifs with hinit hother hstale
    · obtain ⟨rfl, hlife⟩ := hinit
      exact ⟨_, init_rejected hs hlife, rfl, rfl, raise_accept .alreadyInitialized 0#32 w rest s⟩
    · obtain ⟨hi, hlife⟩ := hother
      exact ⟨_, exec_notReady hi hs hlife, rfl, rfl, raise_accept .notInitialized 0#32 w rest s⟩
    · obtain ⟨hi, hfine⟩ := hstale
      have hlife : s.life = .ready := ready_of_not_refused hother (by rintro rfl; simp at hi)
      exact ⟨_, exec_stale hi hs hlife hfine, rfl, rfl, raise_accept .staleFineTemperature 0#32 w rest s⟩
    · obtain ⟨t, he, hfits, hevents⟩ := exec_begins hs hinit hother hstale
      obtain ⟨hcmd, -, hhost', -⟩ := exec_sameOutside he
      obtain ⟨hresp, -, hbusy'⟩ := exec_responseUntilEnd he (ne_idle_of_seqFits hfits)
      exact ⟨t, he, hhost', hcmd, hbusy', hfits, hresp, hevents⟩

end Sys2Proof.Machine
end

section
/-! PROOF. The handshake of the host port (spec/60_exceptions.md R289), and which steps change LIFE (R281). -/

namespace Sys2Proof.Machine

/-! ### BUSY and the response -/

/-- A statement keeps `BUSY`, or ends the command with its response, a port event at most before it. -/
def BusyUntilResponse (s t : State) : Prop := t.busy = s.busy ∨ ∃ r u, t = finish r u ∧ AtMostOnePortEvent s u

theorem BusyUntilResponse.raises {s u : State} (h : AtMostOnePortEvent s u) (e : ErrorKind) (info : Word) :
    BusyUntilResponse s (raise e info u) := .inr ⟨_, u, rfl, h⟩

theorem BusyUntilResponse.initFails {s u : State} (h : AtMostOnePortEvent s u) (e : ErrorKind) (info : Word) :
    BusyUntilResponse s (initFail e info u) := .raises (u := initFailEffects e u) h e info

theorem BusyUntilResponse.responds (s : State) (value : Word) (flags : BitVec 3) :
    BusyUntilResponse s (respondOk value flags s) := .inr ⟨_, s, rfl, .none rfl⟩

theorem exec_busyUntilResponse {i : Instr} {s t : State} (he : exec i s = .next t) : BusyUntilResponse s t := by
  cases i with
  | init =>
    apply init_next_elim s t he
    case waits => rintro rfl; exact .inl rfl
    case rejected => intros; exact .raises (.none rfl) _ _
    case readNacked | writeNacked | wrongDevice | pollTimeout => intros; exact .initFails (.one _ rfl rfl) _ _
    case responds => intros; exact .responds _ _ _
    all_goals (intros; exact .inl rfl)
  | configure md ot opr oh flt sb =>
    apply configure_next_elim _ _ _ _ _ _ s t he _ rfl
    case waits => rintro rfl; exact .inl rfl
    case notReady => intros; exact .raises (.none rfl) _ _
    case nacked => intros; exact .raises (.one _ rfl rfl) _ _
    case responds => intros; exact .responds _ _ _
    all_goals (intros; exact .inl rfl)
  | readT =>
    apply readT_next_elim s t he
    case waits => rintro rfl; exact .inl rfl
    case notReady => intros; exact .raises (.none rfl) _ _
    case nacked => intros; exact .raises (.one _ rfl rfl) _ _
    case responds => intros; exact .responds _ _ _
    all_goals (intros; exact .inl rfl)
  | readP fresh =>
    apply readP_next_elim fresh s t he
    case waits => rintro rfl; exact .inl rfl
    case notReady | stale => intros; exact .raises (.none rfl) _ _
    case nackedT | nacked => intros; exact .raises (.one _ rfl rfl) _ _
    case responds => intros; exact .responds _ _ _
    all_goals (intros; exact .inl rfl)
  | readH fresh =>
    apply readH_next_elim fresh s t he
    case waits => rintro rfl; exact .inl rfl
    case notReady | stale => intros; exact .raises (.none rfl) _ _
    case nackedT | nacked => intros; exact .raises (.one _ rfl rfl) _ _
    case responds => intros; exact .responds _ _ _
    all_goals (intros; exact .inl rfl)

/-! ### The counts of the record -/

/-- No statement takes a word from the host port (R289). -/
theorem exec_accepts {i : Instr} {s t : State} (he : exec i s = .next t) :
    t.events.countP isAccept = s.events.countP isAccept := by
  obtain ⟨es, hes, -, haccepts, -⟩ := execEmitsOneEvent i s t he
  simp [hes, haccepts]

theorem AtMostOnePortEvent.accepts {s t : State} (h : AtMostOnePortEvent s t) :
    t.events.countP isAccept = s.events.countP isAccept := by
  obtain ⟨es, hes, -, haccepts, -⟩ := h.counts
  simp [hes, haccepts]

theorem AtMostOnePortEvent.responses {s t : State} (h : AtMostOnePortEvent s t) :
    t.events.countP isResponse = s.events.countP isResponse := by
  obtain ⟨es, hes, -, -, hresponses⟩ := h.counts
  simp [hes, hresponses]

/-- The one response of a busy block's word makes up for `BUSY`. -/
theorem answered_finish {s u : State} (h : s.Answered) (hbusy : s.busy = true) (hport : AtMostOnePortEvent s u)
    (r : Response) : (finish r u).Answered := by
  simp only [State.Answered, hbusy, Bool.toNat_true] at h
  simp [State.Answered, isAccept, isResponse, hport.accepts, hport.responses, h]

/-- A statement of a busy block keeps that the accepted words are the responses and the one it executes. -/
theorem exec_answered {i : Instr} {s t : State} (h : s.Answered) (hbusy : s.busy = true) (he : exec i s = .next t) :
    t.Answered := by
  obtain hkept | ⟨r, u, rfl, hport⟩ := exec_busyUntilResponse he
  · obtain hport | ⟨r, u, rfl, hport, -⟩ := exec_statementEnd he
    · rwa [State.Answered, hport.accepts, hport.responses, hkept]
    · exact answered_finish h hbusy hport r
  · exact answered_finish h hbusy hport r

theorem answered_accept {s : State} (h : s.Answered) (hbusy : s.busy = false) (w : Word) (rest : List Word) :
    (accept w rest s).Answered := by
  simp only [State.Answered, hbusy, Bool.toNat_false, Nat.add_zero] at h
  simp [State.Answered, isAccept, isResponse, h]

/-! ### The handshake -/

theorem acceptStep_next (w : Word) (rest : List Word) (s : State) : ∃ t, acceptStep w rest s = .next t := by
  cases hw : decode w with
  | illegal why => exact ⟨_, acceptStep_illegal hw rest s⟩
  | command i =>
    rw [acceptStep_command hw]
    obtain ⟨t, he, -⟩ := exec_entry_next (s := accept w rest s) rfl i
    exact ⟨t, he⟩

/-- The acceptance of a word takes it from the host port into CMD, and the record has it once (R289; log 30). -/
theorem acceptStep_takes {w : Word} {rest : List Word} {s t : State} (he : acceptStep w rest s = .next t) :
    t.hostQueue = rest ∧ t.cmd = w ∧ t.events.countP isAccept = s.events.countP isAccept + 1 := by
  have haccept : (accept w rest s).events.countP isAccept = s.events.countP isAccept + 1 := by simp [isAccept]
  cases hw : decode w with
  | illegal why =>
    rw [acceptStep_illegal hw] at he; cases he
    exact ⟨rfl, rfl, by simp [List.countP_cons, isAccept]⟩
  | command i =>
    rw [acceptStep_command hw] at he
    obtain ⟨hcmd, -, hhost, -⟩ := exec_sameOutside he
    exact ⟨hhost, hcmd, (exec_accepts he).trans haccept⟩

theorem acceptStep_answered {w : Word} {rest : List Word} {s t : State} (h : s.Answered) (hbusy : s.busy = false)
    (he : acceptStep w rest s = .next t) : t.Answered := by
  have haccept := answered_accept h hbusy w rest
  cases hw : decode w with
  | illegal why =>
    rw [acceptStep_illegal hw] at he; cases he
    exact answered_finish haccept rfl (.none rfl) _
  | command i =>
    rw [acceptStep_command hw] at he
    exact exec_answered haccept rfl he

/-- A step that continues a command is a statement of the one in CMD. -/
theorem continueStep_exec {s t : State} (he : continueStep s = .next t) :
    ∃ i, decode s.cmd = .command i ∧ exec i s = .next t := by
  rw [continueStep] at he
  cases hw : decode s.cmd with
  | illegal why => rw [hw] at he; cases he
  | command i => rw [hw] at he; exact ⟨i, rfl, he⟩

/-- While busy, the host's words and the count of accepted ones stay (R289). -/
theorem step_busy_keeps_host {s t : State} (hbusy : s.busy = true) (hreset : s.resetReq = false)
    (he : step s = .next t) :
    t.hostQueue = s.hostQueue ∧ t.events.countP isAccept = s.events.countP isAccept := by
  obtain ⟨hreq, -⟩ | ⟨m, rest, -, -, hstep⟩ | ⟨-, hidle, -⟩ | ⟨w, rest, -, hidle, -⟩ | ⟨-, -, hstep⟩ := step_cases s
  · rw [hreset] at hreq; cases hreq
  · rw [hstep] at he; cases he; exact ⟨rfl, rfl⟩
  · rw [hbusy] at hidle; cases hidle
  · rw [hbusy] at hidle; cases hidle
  · rw [hstep] at he
    obtain ⟨i, -, he⟩ := continueStep_exec he
    obtain ⟨-, -, hhost, -⟩ := exec_sameOutside he
    exact ⟨hhost, exec_accepts he⟩

theorem step_answered {s t : State} (h : s.Answered) (he : step s = .next t) : t.Answered := by
  obtain ⟨-, hstep⟩ | ⟨m, rest, -, -, hstep⟩ | ⟨-, -, -, hstep⟩ | ⟨w, rest, -, hbusy, -, hstep⟩ | ⟨-, hbusy, hstep⟩ :=
    step_cases s
  · rw [hstep] at he; cases he; rfl
  · rw [hstep] at he; cases he; exact h
  · rw [hstep] at he; cases he; exact h
  · rw [hstep] at he; exact acceptStep_answered h hbusy he
  · rw [hstep] at he
    obtain ⟨i, -, he⟩ := continueStep_exec he
    exact exec_answered h hbusy he

/-- Settles O44: the busy step, the acceptance, and the count by whose move the step is. -/
theorem hostPortHandshake : Obligations.HostPortHandshake := by
  unfold Obligations.HostPortHandshake
  refine ⟨fun s t => step_busy_keeps_host, fun s w rest hbusy hreset hmove hhost => ?_,
    fun s t _ => step_answered⟩
  rw [step_acceptStep hbusy hreset hmove hhost]
  obtain ⟨t, he⟩ := acceptStep_next w rest s
  exact ⟨t, he, acceptStep_takes he⟩

/-! ### LIFE (R281) -/

theorem exec_life_of_ne_init {i : Instr} {s t : State} (hi : i ≠ .init) (he : exec i s = .next t) :
    t.life = s.life := by
  have hsame (hkeeps : sameLifecycle s t) : t.life = s.life := hkeeps.1
  cases i with
  | init => exact absurd rfl hi
  | configure => exact hsame (configure_keeps he).1
  | readT => exact hsame (readT_keeps he).1.1
  | readP => exact hsame (readP_keeps he).1.1
  | readH => exact hsame (readH_keeps he).1.1

/-- A statement keeps LIFE, or stands at a position of INIT: INIT's first statement keeps it too (R140, R141). -/
theorem exec_life {i : Instr} {s t : State} (he : exec i s = .next t) : t.life = s.life ∨ ∃ p, s.seq = .init p := by
  by_cases hi : i = .init
  · subst hi
    cases hs : s.seq with
    | idle =>
      by_cases hlife : s.life = .ready
      · rw [init_rejected hs hlife] at he; cases he; exact .inl rfl
      · rw [init_entry hs hlife] at he; cases he; exact .inl rfl
    | init p => exact .inr ⟨p, rfl⟩
    | _ => simp only [exec, execInit, hs] at he; cases he
  · exact .inl (exec_life_of_ne_init hi he)

theorem acceptStep_life {w : Word} {rest : List Word} {s t : State} (he : acceptStep w rest s = .next t) :
    t.life = s.life := by
  cases hw : decode w with
  | illegal why => rw [acceptStep_illegal hw] at he; cases he; rfl
  | command i =>
    rw [acceptStep_command hw] at he
    obtain hlife | ⟨p, hp⟩ := exec_life he
    · exact hlife
    · cases hp

/-- Settles O50: by whose move the step is; a block reset apart, only a statement of a busy block writes LIFE. -/
theorem onlyInitChangesLife : Obligations.OnlyInitChangesLife := by
  unfold Obligations.OnlyInitChangesLife
  refine ⟨fun s t hreset he hne => ?_, fun i s t => exec_life_of_ne_init⟩
  obtain ⟨hreq, -⟩ | ⟨m, rest, -, -, hstep⟩ | ⟨-, -, -, hstep⟩ | ⟨w, rest, -, -, -, hstep⟩ | ⟨-, hbusy, hstep⟩ :=
    step_cases s
  · rw [hreset] at hreq; cases hreq
  · rw [hstep] at he; cases he; exact absurd rfl hne
  · rw [hstep] at he; cases he; exact absurd rfl hne
  · rw [hstep] at he; exact absurd (acceptStep_life he) hne
  · rw [hstep] at he
    obtain ⟨i, -, he⟩ := continueStep_exec he
    exact ⟨hbusy, (exec_life he).resolve_left hne⟩

end Sys2Proof.Machine
end

section
/-! PROOF. The values after reset and after a block reset (spec/70_reset_and_hazards.md R300, R301). -/

namespace Sys2Proof.Machine

/-- With no word offered the block waits (R301). -/
theorem step_idle {s : State} (hreset : s.resetReq = false) (hmove : ∀ m q, s.busQueue ≠ .move m :: q)
    (hbusy : s.busy = false) (hhost : s.hostQueue = []) : step s = .next s := by
  rw [step_block hreset hmove]
  simp [blockStep, hbusy, hhost]

theorem blockReset_reset : blockReset State.reset = State.reset := rfl

/-- Settles O45: every block reset has R300's values, and the reset state is the block reset of itself. -/
theorem blockResetValues : Obligations.BlockResetValues := by
  unfold Obligations.BlockResetValues
  intro atReset
  have hvalues (s : State) : atReset (blockReset s) :=
    ⟨rfl, rfl, rfl, rfl, rfl, rfl, rfl, rfl, rfl, rfl, readCal_invalid rfl, readTFine_invalid rfl, rfl⟩
  exact ⟨blockReset_reset ▸ hvalues State.reset, step_idle rfl nofun rfl rfl,
    fun s hreset => ⟨blockReset s, step_reset hreset, hvalues s, rfl, rfl, rfl, rfl, rfl⟩⟩

end Sys2Proof.Machine
end

section
/-! PROOF. The order of the transactions (spec/70_reset_and_hazards.md R304 to R306): which events a record in order
may go on with, and that every statement goes on with one of these. -/

namespace Sys2Proof.Machine

/-! ### A record in order -/

theorem orderLog_append (es : List Event) (e : Event) : orderLog (es ++ [e]) = (orderLog es).see e := by
  simp [orderLog]

/-- The record breaks no order rule and awaits no settle delay. -/
def InOrder (es : List Event) : Prop := (orderLog es).ok = true ∧ (orderLog es).settling = false

/-- The settle delay is awaited at its own position only. -/
theorem State.Ordered.inOrder {s : State} (h : s.Ordered) {q : Seq} (hs : s.seq = q)
    (hq : q ≠ .init .resetSettle) : InOrder s.events :=
  ⟨h.kept, Bool.eq_false_iff.mpr fun hsettling => hq (hs ▸ h.settling.mp hsettling)⟩

theorem State.Ordered.positionAt {s : State} (h : s.Ordered) {q : Seq} (hs : s.seq = q) :
    q.orderOk (orderLog s.events) = true := hs ▸ h.position

theorem State.Ordered.of_inOrder {s : State} (h : InOrder s.events) (hne : s.seq ≠ .init .resetSettle)
    (hposition : s.seq.orderOk (orderLog s.events) = true) : s.Ordered := by
  obtain ⟨hok, hsettling⟩ := h
  exact ⟨hok, by simp [hsettling, hne], hposition⟩

section
variable {es : List Event} {a v : Byte} {n : Nat} {ack : Bool} {answer : Option (List Byte)}

theorem InOrder.accept (h : InOrder es) (w : Word) : InOrder (es ++ [.accept w]) := by
  rwa [InOrder, orderLog_append]

theorem InOrder.response (h : InOrder es) (r : Response) : InOrder (es ++ [.response r]) := by
  rwa [InOrder, orderLog_append]

theorem InOrder.delay (h : InOrder es) (d : DelayName) : InOrder (es ++ [.delay d]) := by
  obtain ⟨hok, hsettling⟩ := h
  rw [InOrder, orderLog_append]
  exact ⟨hok, by simp [OrderLog.see, hsettling]⟩

/-- A calibration register is read after a clear status read (R306). -/
theorem InOrder.read (h : InOrder es) (hcal : (!isCalibration a || (orderLog es).calReady) = true) :
    InOrder (es ++ [.read a n answer]) := by
  obtain ⟨hok, hsettling⟩ := h
  rw [InOrder, orderLog_append]
  exact ⟨by simp only [OrderLog.see, hok, hsettling, hcal]; rfl, hsettling⟩

theorem InOrder.readOther (h : InOrder es) (ha : isCalibration a = false) : InOrder (es ++ [.read a n answer]) :=
  h.read (by rw [ha]; rfl)

theorem InOrder.readCalibration (h : InOrder es) (hready : (orderLog es).calReady = true) :
    InOrder (es ++ [.read a n answer]) := h.read (by rw [hready, Bool.or_true])

/-- A configuration register is written in its turn (R304); the reset code is not acknowledged. -/
theorem InOrder.write (h : InOrder es) (hturn : inTurn (orderLog es).phase a = true)
    (hreset : ack = false ∨ a ≠ Config.regReset) : InOrder (es ++ [.write a v ack]) := by
  obtain ⟨hok, hsettling⟩ := h
  rw [InOrder, orderLog_append]
  refine ⟨by simp [OrderLog.see, hok, hsettling, hturn], ?_⟩
  obtain rfl | ha := hreset
  · simp [OrderLog.see, hsettling]
  · simp [OrderLog.see, hsettling, ha]

/-- No read makes the calibration registers unready. -/
theorem calReady_read (h : (orderLog es).calReady = true) :
    (orderLog (es ++ [.read a n answer])).calReady = true := by simp [orderLog_append, OrderLog.see, h]

/-- A clear status read makes the calibration registers ready (R306). -/
theorem calReady_clearStatus {st : Byte} (h : st.getLsbD 0 = false) :
    (orderLog (es ++ [.read Config.regStatus n (some [st])])).calReady = true := by
  simpa [orderLog_append, OrderLog.see] using Or.inr h

end

/-- The response of a command leaves an ordered state, idle. -/
theorem InOrder.finish {u : State} (h : InOrder u.events) (r : Response) : (finish r u).Ordered :=
  .of_inOrder (h.response r) nofun rfl

theorem InOrder.initFail {u : State} (h : InOrder u.events) (e : ErrorKind) (info : Word) :
    (initFail e info u).Ordered :=
  InOrder.finish (u := initFailEffects e u) h _

/-! ### The settle delay (R305) -/

/-- The acknowledged reset code leaves an ordered state at the settle delay. -/
theorem InOrder.resetCode {t : State} {es : List Event} (h : InOrder es) (ht : t.seq = .init .resetSettle)
    (hevents : t.events = es ++ [.write Config.regReset Config.resetCode true]) : t.Ordered := by
  obtain ⟨hok, hsettling⟩ := h
  refine ⟨?_, ?_, by rw [ht]; rfl⟩
  · simp [hevents, orderLog_append, OrderLog.see, hok, hsettling, inTurn, Config.regReset, Config.regConfig,
      Config.regCtrlMeas]
  · simp [hevents, orderLog_append, OrderLog.see, ht]

/-- After the settle delay transactions may follow. -/
theorem State.Ordered.settled {s : State} (h : s.Ordered) : InOrder (s.events ++ [.delay .tResetSettle]) := by
  rw [InOrder, orderLog_append]
  exact ⟨h.kept, by simp [OrderLog.see]⟩

/-! ### The turns of the configuration registers (R304) -/

theorem orderOk_applyDefault (m : OrderLog) (w : CfgWrite) :
    (Seq.init (.applyDefault w)).orderOk m = inTurn m.phase w.addr := by cases w <;> rfl

theorem orderOk_configure (m : OrderLog) (w : CfgWrite) :
    (Seq.configure (.write w)).orderOk m = inTurn m.phase w.addr := by cases w <;> rfl

/-- Each acknowledged write gives the turn to the next. -/
theorem inTurn_next {w w' : CfgWrite} (h : w.next = some w') (es : List Event) (v : Byte) :
    inTurn (orderLog (es ++ [.write w.addr v true])).phase w'.addr = true := by
  rw [orderLog_append]
  cases w with
  | ctrlHum => cases h; rfl
  | config => cases h; rfl
  | ctrlMeas => cases h

theorem cfgWrite_addr_ne_reset (w : CfgWrite) : w.addr ≠ Config.regReset := by cases w <;> decide

/-- A configuration write in its turn, acknowledged or not. -/
theorem InOrder.writeConfig {es : List Event} {w : CfgWrite} {v : Byte} {ack : Bool} (h : InOrder es)
    (hturn : inTurn (orderLog es).phase w.addr = true) : InOrder (es ++ [.write w.addr v ack]) :=
  h.write hturn (.inr (cfgWrite_addr_ne_reset w))

/-! ### The statements -/

theorem init_keepsOrder {s t : State} (h : s.Ordered) (he : exec .init s = .next t) : t.Ordered := by
  apply init_next_elim s t he
  case waits => rintro rfl; exact h
  case rejected => intro hs _; exact (h.inOrder hs nofun).finish _
  case entry => intro hs _; exact .of_inOrder (h.inOrder hs nofun) nofun rfl
  case readNacked =>
    intro p addr n rest hs hp
    obtain ⟨rfl, rfl, -⟩ | ⟨rfl, rfl, -⟩ | ⟨r, rfl, rfl, -⟩ := hp
    · exact ((h.inOrder hs nofun).readOther rfl).initFail _ _
    · exact ((h.inOrder hs nofun).readOther rfl).initFail _ _
    · exact ((h.inOrder hs nofun).readCalibration (h.positionAt hs)).initFail _ _
  case writeNacked =>
    intro p addr v rest hs hp
    obtain ⟨rfl, rfl, -⟩ | ⟨w, rfl, rfl, -⟩ := hp
    · exact ((h.inOrder hs nofun).write rfl (.inl rfl)).initFail _ _
    · exact ((h.inOrder hs nofun).writeConfig (orderOk_applyDefault _ w ▸ h.positionAt hs)).initFail _ _
  case wrongDevice => intro rest id hs _; exact ((h.inOrder hs nofun).readOther rfl).initFail _ _
  case idRight => intro rest hs; exact .of_inOrder ((h.inOrder hs nofun).readOther rfl) nofun rfl
  case resetWritten => intro rest k hs; exact (h.inOrder hs nofun).resetCode rfl rfl
  case resetSettled => intro k hs; exact .of_inOrder h.settled nofun rfl
  case pollClear =>
    intro rest st hs hclear
    exact .of_inOrder ((h.inOrder hs nofun).readOther rfl) nofun (calReady_clearStatus hclear)
  case pollTimeout => intro rest st hs _ _; exact ((h.inOrder hs nofun).readOther rfl).initFail _ _
  case pollBusy => intro rest st hs _ _; exact .of_inOrder ((h.inOrder hs nofun).readOther rfl) nofun rfl
  case pollWaited => intro k hs; exact .of_inOrder ((h.inOrder hs nofun).delay _) nofun rfl
  case rowLoaded =>
    intro r r' rest b0 b1 b2 hs _
    have hready := h.positionAt hs
    exact .of_inOrder ((h.inOrder hs nofun).readCalibration hready) nofun (calReady_read hready)
  case lastRowLoaded =>
    intro rest b0 b1 b2 hs
    exact .of_inOrder ((h.inOrder hs nofun).readCalibration (h.positionAt hs)) nofun rfl
  case defaultWritten =>
    intro w w' rest k hw hs
    have hturn := orderOk_applyDefault _ w ▸ h.positionAt hs
    exact .of_inOrder ((h.inOrder hs nofun).writeConfig hturn) nofun
      ((orderOk_applyDefault _ w').trans (inTurn_next hw s.events _))
  case lastDefaultWritten =>
    intro rest k hs
    have hturn := orderOk_applyDefault _ .ctrlMeas ▸ h.positionAt hs
    exact .of_inOrder ((h.inOrder hs nofun).writeConfig hturn) nofun rfl
  case settled => intro k hs; exact .of_inOrder ((h.inOrder hs nofun).delay _) nofun rfl
  case responds => intro hs; exact (h.inOrder hs nofun).finish _

theorem configure_keepsOrder {md : BitVec 2} {ot opr oh flt sb : BitVec 3} {s t : State} (h : s.Ordered)
    (he : exec (.configure md ot opr oh flt sb) s = .next t) : t.Ordered := by
  apply configure_next_elim _ _ _ _ _ _ s t he _ rfl
  case waits => rintro rfl; exact h
  case notReady => intro hs _; exact (h.inOrder hs nofun).finish _
  case entry => intro hs _; exact .of_inOrder (h.inOrder hs nofun) nofun rfl
  case nacked =>
    intro w rest hs
    exact ((h.inOrder hs nofun).writeConfig (orderOk_configure _ w ▸ h.positionAt hs)).finish _
  case written =>
    intro w w' rest k hw hs
    have hturn := orderOk_configure _ w ▸ h.positionAt hs
    exact .of_inOrder ((h.inOrder hs nofun).writeConfig hturn) nofun
      ((orderOk_configure _ w').trans (inTurn_next hw s.events _))
  case lastWritten =>
    intro rest k hs
    have hturn := orderOk_configure _ .ctrlMeas ▸ h.positionAt hs
    exact .of_inOrder ((h.inOrder hs nofun).writeConfig hturn) nofun rfl
  case responds => intro hs; exact (h.inOrder hs nofun).finish _

theorem readT_keepsOrder {s t : State} (h : s.Ordered) (he : exec .readT s = .next t) : t.Ordered := by
  apply readT_next_elim s t he
  case waits => rintro rfl; exact h
  case notReady => intro hs _; exact (h.inOrder hs nofun).finish _
  case entry => intro hs _; exact .of_inOrder (h.inOrder hs nofun) nofun rfl
  case nacked => intro rest hs; exact ((h.inOrder hs nofun).readOther rfl).finish _
  case converted =>
    intro rest b0 b1 b2 v f tf se hs _
    exact .of_inOrder ((h.inOrder hs nofun).readOther rfl) nofun rfl
  case responds => intro hs; exact (h.inOrder hs nofun).finish _

theorem readP_keepsOrder {fresh : Bool} {s t : State} (h : s.Ordered) (he : exec (.readP fresh) s = .next t) :
    t.Ordered := by
  apply readP_next_elim fresh s t he
  case waits => rintro rfl; exact h
  case notReady => intro hs _; exact (h.inOrder hs nofun).finish _
  case stale => intro hs _ _; exact (h.inOrder hs nofun).finish _
  case entryFresh => intro hs _ _; exact .of_inOrder (h.inOrder hs nofun) nofun rfl
  case entry => intro hs _ _ _; exact .of_inOrder (h.inOrder hs nofun) nofun rfl
  case nackedT | nacked => intro rest hs; exact ((h.inOrder hs nofun).readOther rfl).finish _
  case convertedT =>
    intro rest b0 b1 b2 tf se hs _
    exact .of_inOrder ((h.inOrder hs nofun).readOther rfl) nofun rfl
  case converted =>
    intro rest b0 b1 b2 v f hs _ _
    exact .of_inOrder ((h.inOrder hs nofun).readOther rfl) nofun rfl
  case responds => intro hs; exact (h.inOrder hs nofun).finish _

theorem readH_keepsOrder {fresh : Bool} {s t : State} (h : s.Ordered) (he : exec (.readH fresh) s = .next t) :
    t.Ordered := by
  apply readH_next_elim fresh s t he
  case waits => rintro rfl; exact h
  case notReady => intro hs _; exact (h.inOrder hs nofun).finish _
  case stale => intro hs _ _; exact (h.inOrder hs nofun).finish _
  case entryFresh => intro hs _ _; exact .of_inOrder (h.inOrder hs nofun) nofun rfl
  case entry => intro hs _ _ _; exact .of_inOrder (h.inOrder hs nofun) nofun rfl
  case nackedT | nacked => intro rest hs; exact ((h.inOrder hs nofun).readOther rfl).finish _
  case convertedT =>
    intro rest b0 b1 b2 tf se hs _
    exact .of_inOrder ((h.inOrder hs nofun).readOther rfl) nofun rfl
  case converted =>
    intro rest b0 b1 v f hs _ _
    exact .of_inOrder ((h.inOrder hs nofun).readOther rfl) nofun rfl
  case responds => intro hs; exact (h.inOrder hs nofun).finish _

theorem exec_keepsOrder {i : Instr} {s t : State} (h : s.Ordered) (he : exec i s = .next t) : t.Ordered := by
  cases i with
  | init => exact init_keepsOrder h he
  | configure => exact configure_keepsOrder h he
  | readT => exact readT_keepsOrder h he
  | readP => exact readP_keepsOrder h he
  | readH => exact readH_keepsOrder h he

/-! ### The step -/

/-- The record starts anew at a block reset (log 11). -/
theorem blockReset_ordered (s : State) : (blockReset s).Ordered := .of_inOrder ⟨rfl, rfl⟩ nofun rfl

/-- The word an idle block accepts is no transaction. -/
theorem acceptStep_keepsOrder {w : Word} {rest : List Word} {s t : State} (h : s.Ordered) (hs : s.seq = .idle)
    (he : acceptStep w rest s = .next t) : t.Ordered := by
  have haccept : InOrder (accept w rest s).events := (h.inOrder hs nofun).accept w
  cases hw : decode w with
  | illegal why => rw [acceptStep_illegal hw] at he; cases he; exact haccept.finish _
  | command i =>
    rw [acceptStep_command hw] at he
    exact exec_keepsOrder (.of_inOrder haccept nofun rfl) he

/-- Settles O49, by whose move the step is; the invariant says that a block which accepts a word stands at idle. -/
theorem stepKeepsOrder : Obligations.StepKeepsOrder := by
  unfold Obligations.StepKeepsOrder
  intro s t hinv h he
  obtain ⟨-, hstep⟩ | ⟨m, rest, -, -, hstep⟩ | ⟨-, -, -, hstep⟩ | ⟨w, rest, -, hbusy, -, hstep⟩ | ⟨-, -, hstep⟩ :=
    step_cases s
  · rw [hstep] at he; cases he; exact blockReset_ordered s
  · rw [hstep] at he; cases he; exact ⟨h.kept, h.settling, h.position⟩
  · rw [hstep] at he; cases he; exact h
  · rw [hstep] at he; exact acceptStep_keepsOrder h (hinv.idle hbusy).1 he
  · rw [hstep] at he
    obtain ⟨i, -, he⟩ := continueStep_exec he
    exact exec_keepsOrder h he

end Sys2Proof.Machine
end
